-- ==== Sys2Proof/Word.lean ====
section
/-! DEFINITION. The word types of the block: bytes, Format B words, operand and result words, command words. -/

namespace Sys2Proof

/-- A byte of memory, and a channel of Format A (R5: `CW` = 8; R30). -/
abbrev Byte := BitVec 8

/-- A 16-bit word: a Format B value (R8), a width or a height (R5: `DIMW` = 16). -/
abbrev Half := BitVec 16

/-- A 32-bit word: an operand word, a result word (R5: `OPW` = 32), an address (`AW` = 32) or a Format A value (R8). -/
abbrev Word := BitVec 32

/-- A 136-bit command as the command port carries it (R50). -/
abbrev Command := BitVec 136

end Sys2Proof
end

