-- ==== Sys2Proof/Syntax.lean ====
section
/-! DEFINITION. The command set: the four operand words every command carries, the twelve operand formats, and one
constructor per row of spec/opcode_table.json. -/

namespace Sys2Proof

/-- The four operand words `P[0]` to `P[3]`: "All five fields are present in every command, whether or not the command
uses them" (R50). -/
structure Operands where
  p0 : Word
  p1 : Word
  p2 : Word
  p3 : Word
  deriving DecidableEq, Repr

/-- The two pixel formats (R8): Format A, code 0, a 32-bit word; Format B, code 1, a 16-bit word. -/
inductive Format where
  | a
  | b
  deriving DecidableEq, Repr

/-- The alignment class of a surface (R12): code 0 `generalBuffer`, code 1 `displayFramebuffer`. -/
inductive Purpose where
  | generalBuffer
  | displayFramebuffer
  deriving DecidableEq, Repr

/-- The twelve operand formats of R56. -/
inductive OperandFormat where
  | n0 | ch8 | ch5 | w32 | w16 | set | xy | idx | xyc32 | xyc16 | idxc32 | idxc16
  deriving DecidableEq, Repr

/-- The 44 commands of R55. Each carries its four operand words as the host sent them, also the bits its format does not
use: the operand check of R57 is part of executing the command. -/
inductive Instr where
  /-- `PACK.A`, opcode 0x00, operand format CH8: R71. -/
  | packA (p : Operands)
  /-- `PACK.B`, opcode 0x08, operand format CH5: R72. -/
  | packB (p : Operands)
  /-- `CHAN.A.R`, opcode 0x10, operand format W32: R73. -/
  | chanAR (p : Operands)
  /-- `CHAN.A.G`, opcode 0x11, operand format W32: R74. -/
  | chanAG (p : Operands)
  /-- `CHAN.A.B`, opcode 0x12, operand format W32: R75. -/
  | chanAB (p : Operands)
  /-- `CHAN.A.A`, opcode 0x13, operand format W32: R76. -/
  | chanAA (p : Operands)
  /-- `CHAN.B.R`, opcode 0x18, operand format W16: R77. -/
  | chanBR (p : Operands)
  /-- `CHAN.B.G`, opcode 0x19, operand format W16: R78. -/
  | chanBG (p : Operands)
  /-- `CHAN.B.B`, opcode 0x1A, operand format W16: R79. -/
  | chanBB (p : Operands)
  /-- `CHAN.B.A`, opcode 0x1B, operand format W16: R80. -/
  | chanBA (p : Operands)
  /-- `CVT.AB`, opcode 0x20, operand format W32: R91. -/
  | cvtAB (p : Operands)
  /-- `CVT.BA`, opcode 0x28, operand format W16: R93. -/
  | cvtBA (p : Operands)
  /-- `GAMMA.A`, opcode 0x30, operand format CH8: R101. -/
  | gammaA (p : Operands)
  /-- `GAMMA.B`, opcode 0x38, operand format CH5: R102. -/
  | gammaB (p : Operands)
  /-- `CONST.A.BLACK`, opcode 0x40, operand format N0: R105. -/
  | constABlack (p : Operands)
  /-- `CONST.A.RED`, opcode 0x41, operand format N0: R106. -/
  | constARed (p : Operands)
  /-- `CONST.A.GREEN`, opcode 0x42, operand format N0: R107. -/
  | constAGreen (p : Operands)
  /-- `CONST.A.BLUE`, opcode 0x43, operand format N0: R108. -/
  | constABlue (p : Operands)
  /-- `CONST.A.YELLOW`, opcode 0x44, operand format N0: R109. -/
  | constAYellow (p : Operands)
  /-- `CONST.A.MAGENTA`, opcode 0x45, operand format N0: R110. -/
  | constAMagenta (p : Operands)
  /-- `CONST.A.CYAN`, opcode 0x46, operand format N0: R111. -/
  | constACyan (p : Operands)
  /-- `CONST.A.WHITE`, opcode 0x47, operand format N0: R112. -/
  | constAWhite (p : Operands)
  /-- `CONST.B.BLACK`, opcode 0x48, operand format N0: R113. -/
  | constBBlack (p : Operands)
  /-- `CONST.B.RED`, opcode 0x49, operand format N0: R114. -/
  | constBRed (p : Operands)
  /-- `CONST.B.GREEN`, opcode 0x4A, operand format N0: R115. -/
  | constBGreen (p : Operands)
  /-- `CONST.B.BLUE`, opcode 0x4B, operand format N0: R116. -/
  | constBBlue (p : Operands)
  /-- `CONST.B.YELLOW`, opcode 0x4C, operand format N0: R117. -/
  | constBYellow (p : Operands)
  /-- `CONST.B.MAGENTA`, opcode 0x4D, operand format N0: R118. -/
  | constBMagenta (p : Operands)
  /-- `CONST.B.CYAN`, opcode 0x4E, operand format N0: R119. -/
  | constBCyan (p : Operands)
  /-- `CONST.B.WHITE`, opcode 0x4F, operand format N0: R120. -/
  | constBWhite (p : Operands)
  /-- `SURF.SET`, opcode 0x50, operand format SET: R131. -/
  | surfSet (p : Operands)
  /-- `SURF.CLR`, opcode 0x51, operand format N0: R132. -/
  | surfClr (p : Operands)
  /-- `SURF.BASE`, opcode 0x52, operand format N0: R133. -/
  | surfBase (p : Operands)
  /-- `SURF.WIDTH`, opcode 0x53, operand format N0: R134. -/
  | surfWidth (p : Operands)
  /-- `SURF.HEIGHT`, opcode 0x54, operand format N0: R135. -/
  | surfHeight (p : Operands)
  /-- `SURF.COUNT`, opcode 0x55, operand format N0: R136. -/
  | surfCount (p : Operands)
  /-- `SURF.ATTR`, opcode 0x56, operand format N0: R137. -/
  | surfAttr (p : Operands)
  /-- `SURF.OFFS`, opcode 0x57, operand format XY: R143. -/
  | surfOffs (p : Operands)
  /-- `SURF.ADDR`, opcode 0x58, operand format XY: R144. -/
  | surfAddr (p : Operands)
  /-- `SURF.LOAD`, opcode 0x59, operand format IDX: R146. -/
  | surfLoad (p : Operands)
  /-- `DRAW.A`, opcode 0x60, operand format XYC32: R148. -/
  | drawA (p : Operands)
  /-- `STORE.A`, opcode 0x61, operand format IDXC32: R151. -/
  | storeA (p : Operands)
  /-- `DRAW.B`, opcode 0x68, operand format XYC16: R149. -/
  | drawB (p : Operands)
  /-- `STORE.B`, opcode 0x69, operand format IDXC16: R152. -/
  | storeB (p : Operands)
  deriving DecidableEq, Repr

end Sys2Proof
end

