-- ==== Sys2Proof/Decode.lean ====
section
/-! DEFINITION. The decoder, total on all 136-bit commands, and after it the encoder. "A decoder reads `op` and nothing
else to know the command" (R50). -/

namespace Sys2Proof

/-- Why an opcode byte is reserved: the rows of R58. Each makes the block respond `ERR_ILLEGAL`. -/
inductive DecodeError where
  /-- 0x01 to 0x07, 0x09 to 0x0F: PACK with `sel != 0`. -/
  | packSelector
  /-- 0x14 to 0x17, 0x1C to 0x1F: CHAN with `sel[2] = 1`. -/
  | chanSelector
  /-- 0x21 to 0x27, 0x29 to 0x2F: CVT with `sel != 0`. -/
  | cvtSelector
  /-- 0x31 to 0x37, 0x39 to 0x3F: GAMMA with `sel != 0`. -/
  | gammaSelector
  /-- 0x5A to 0x5F: SURF with `fn` 10 to 15. -/
  | surfFunction
  /-- 0x62 to 0x67, 0x6A to 0x6F: PIX with `sel` 2 to 7. -/
  | pixSelector
  /-- 0x70 to 0xFF: families 7 to 15. -/
  | family
  deriving DecidableEq, Repr

/-- The opcode byte, command bits 135:128 (R50). -/
def opField (w : Command) : BitVec 8 := w.extractLsb' 128 8

/-- The four operand words, command bits 127:96, 95:64, 63:32 and 31:0 (R50). -/
def operandFields (w : Command) : Operands :=
  ⟨w.extractLsb' 96 32, w.extractLsb' 64 32, w.extractLsb' 32 32, w.extractLsb' 0 32⟩

/-- The complete opcode map of R55: `none` for a reserved byte. -/
def instrOfOp (op : Nat) (p : Operands) : Option Instr :=
  match op with
  | 0x00 => some (.packA p)
  | 0x08 => some (.packB p)
  | 0x10 => some (.chanAR p)
  | 0x11 => some (.chanAG p)
  | 0x12 => some (.chanAB p)
  | 0x13 => some (.chanAA p)
  | 0x18 => some (.chanBR p)
  | 0x19 => some (.chanBG p)
  | 0x1A => some (.chanBB p)
  | 0x1B => some (.chanBA p)
  | 0x20 => some (.cvtAB p)
  | 0x28 => some (.cvtBA p)
  | 0x30 => some (.gammaA p)
  | 0x38 => some (.gammaB p)
  | 0x40 => some (.constABlack p)
  | 0x41 => some (.constARed p)
  | 0x42 => some (.constAGreen p)
  | 0x43 => some (.constABlue p)
  | 0x44 => some (.constAYellow p)
  | 0x45 => some (.constAMagenta p)
  | 0x46 => some (.constACyan p)
  | 0x47 => some (.constAWhite p)
  | 0x48 => some (.constBBlack p)
  | 0x49 => some (.constBRed p)
  | 0x4A => some (.constBGreen p)
  | 0x4B => some (.constBBlue p)
  | 0x4C => some (.constBYellow p)
  | 0x4D => some (.constBMagenta p)
  | 0x4E => some (.constBCyan p)
  | 0x4F => some (.constBWhite p)
  | 0x50 => some (.surfSet p)
  | 0x51 => some (.surfClr p)
  | 0x52 => some (.surfBase p)
  | 0x53 => some (.surfWidth p)
  | 0x54 => some (.surfHeight p)
  | 0x55 => some (.surfCount p)
  | 0x56 => some (.surfAttr p)
  | 0x57 => some (.surfOffs p)
  | 0x58 => some (.surfAddr p)
  | 0x59 => some (.surfLoad p)
  | 0x60 => some (.drawA p)
  | 0x61 => some (.storeA p)
  | 0x68 => some (.drawB p)
  | 0x69 => some (.storeB p)
  | _ => none

/-- The reason a reserved byte is reserved, by its family field `op[7:4]` (R52, R58). -/
def reservedReason (op : BitVec 8) : DecodeError :=
  match (op.extractLsb' 4 4).toNat with
  | 0 => .packSelector
  | 1 => .chanSelector
  | 2 => .cvtSelector
  | 3 => .gammaSelector
  | 5 => .surfFunction
  | 6 => .pixSelector
  | _ => .family

/-- The command of a 136-bit command word, or the reason its opcode byte is reserved (R55, R58). The operand check is not
part of decoding: "Operand bits outside operand_masks ... do not select another command" (opcode_table.json). -/
def decode (w : Command) : Except DecodeError Instr :=
  match instrOfOp (opField w).toNat (operandFields w) with
  | some i => .ok i
  | none => .error (reservedReason (opField w))

/-- The opcode byte of each command (R55). -/
def opcode : Instr → BitVec 8
  | .packA _ => 0x00#8
  | .packB _ => 0x08#8
  | .chanAR _ => 0x10#8
  | .chanAG _ => 0x11#8
  | .chanAB _ => 0x12#8
  | .chanAA _ => 0x13#8
  | .chanBR _ => 0x18#8
  | .chanBG _ => 0x19#8
  | .chanBB _ => 0x1A#8
  | .chanBA _ => 0x1B#8
  | .cvtAB _ => 0x20#8
  | .cvtBA _ => 0x28#8
  | .gammaA _ => 0x30#8
  | .gammaB _ => 0x38#8
  | .constABlack _ => 0x40#8
  | .constARed _ => 0x41#8
  | .constAGreen _ => 0x42#8
  | .constABlue _ => 0x43#8
  | .constAYellow _ => 0x44#8
  | .constAMagenta _ => 0x45#8
  | .constACyan _ => 0x46#8
  | .constAWhite _ => 0x47#8
  | .constBBlack _ => 0x48#8
  | .constBRed _ => 0x49#8
  | .constBGreen _ => 0x4A#8
  | .constBBlue _ => 0x4B#8
  | .constBYellow _ => 0x4C#8
  | .constBMagenta _ => 0x4D#8
  | .constBCyan _ => 0x4E#8
  | .constBWhite _ => 0x4F#8
  | .surfSet _ => 0x50#8
  | .surfClr _ => 0x51#8
  | .surfBase _ => 0x52#8
  | .surfWidth _ => 0x53#8
  | .surfHeight _ => 0x54#8
  | .surfCount _ => 0x55#8
  | .surfAttr _ => 0x56#8
  | .surfOffs _ => 0x57#8
  | .surfAddr _ => 0x58#8
  | .surfLoad _ => 0x59#8
  | .drawA _ => 0x60#8
  | .storeA _ => 0x61#8
  | .drawB _ => 0x68#8
  | .storeB _ => 0x69#8

/-- The operand words of a command as the encoder lays them out. -/
def operandWords : Instr → Operands
  | .packA p => p
  | .packB p => p
  | .chanAR p => p
  | .chanAG p => p
  | .chanAB p => p
  | .chanAA p => p
  | .chanBR p => p
  | .chanBG p => p
  | .chanBB p => p
  | .chanBA p => p
  | .cvtAB p => p
  | .cvtBA p => p
  | .gammaA p => p
  | .gammaB p => p
  | .constABlack p => p
  | .constARed p => p
  | .constAGreen p => p
  | .constABlue p => p
  | .constAYellow p => p
  | .constAMagenta p => p
  | .constACyan p => p
  | .constAWhite p => p
  | .constBBlack p => p
  | .constBRed p => p
  | .constBGreen p => p
  | .constBBlue p => p
  | .constBYellow p => p
  | .constBMagenta p => p
  | .constBCyan p => p
  | .constBWhite p => p
  | .surfSet p => p
  | .surfClr p => p
  | .surfBase p => p
  | .surfWidth p => p
  | .surfHeight p => p
  | .surfCount p => p
  | .surfAttr p => p
  | .surfOffs p => p
  | .surfAddr p => p
  | .surfLoad p => p
  | .drawA p => p
  | .storeA p => p
  | .drawB p => p
  | .storeB p => p

/-- A command word from its opcode byte and operand words (R50). -/
def commandWord (op : BitVec 8) (p : Operands) : Command :=
  (op ++ p.p0 ++ p.p1 ++ p.p2 ++ p.p3).cast (by decide)

/-- The command word of a command (R50, R55). -/
def encode (i : Instr) : Command := commandWord (opcode i) (operandWords i)

/-- The command word whose low `nbits` bits are those of `w`, every bit above them 0: bit 0 of `w` is command bit 0 of R50
(the least significant bit of `P[3]`) and the opcode byte is bits 135:128, as opcode_table.json numbers them. -/
def commandOfBits (nbits w : Nat) : Command := BitVec.ofNat 136 (w % 2 ^ nbits)

/-- What the decoder reads from a command whose bits are `w`. -/
def decodeTableWord (nbits w : Nat) : Option Instr :=
  match decode (commandOfBits nbits w) with
  | .ok i => some i
  | .error _ => none

end Sys2Proof
end

