-- ==== Sys2Proof/Config.lean ====
section
/-! DEFINITION. What the spec leaves to an implementation (R5): the bounds policy this hardware takes, and the open parameters as constants without a body. -/

namespace Sys2Proof

/-- The bounds test of a drawn point (R5, R141): `strict` is `<`, `inclusive` is `<=`. -/
inductive BoundsPolicy where
  | strict
  | inclusive
  deriving DecidableEq, Repr

/-- "`BoundsPolicy` = `Strict`" for this hardware (R5, R141). The operations take the policy as an argument, so that
`inclusive` is specified too. Log entry 8. -/
abbrev Config.boundsPolicy : BoundsPolicy := .strict

/-- OPEN (R5, U8): how far `DisplayAlign` exceeds 16, as a power of two. Free value, log entry 6. -/
opaque Config.displayAlignShift : Nat

/-- `DisplayAlign`: "a power of two not below 16" (R5) and nothing else known of it. Log entry 6. -/
def Config.displayAlign : Nat := 2 ^ (4 + Config.displayAlignShift)

/-- OPEN (R5, R100, U6): `GammaRemap8`, a total function of one 8-bit channel. Free value, log entry 7. -/
opaque Config.gammaRemap8 : Byte → Byte

/-- OPEN (R5, R100, U6): `GammaRemap5`, a total function of one 5-bit channel. Free value, log entry 7. -/
opaque Config.gammaRemap5 : BitVec 5 → BitVec 5

/-- What the memory holds at an address that nothing has written: "any value: the initial memory is an argument of the
model" (U7). Free value, one per address, log entry 4. -/
opaque Config.initialByte : Nat → Byte

end Sys2Proof
end

