-- ==== Sys2Proof/Machine/State.lean ====
section
/-! DEFINITION. The state of the block and its interfaces as plain data, the state after reset, and the reasons a step can
stop. -/

namespace Sys2Proof.Machine

/-- The fields S1 to S5 of the surface descriptor (R12). S0, `S.VALID`, says whether the block holds one at all. -/
structure Surface where
  /-- S1 `S.BASE`: byte address of pixel 0. -/
  base : Word
  /-- S2 `S.WIDTH`: pixels per row. -/
  width : Half
  /-- S3 `S.HEIGHT`: number of rows. -/
  height : Half
  /-- S4 `S.FMT`: the native pixel format. -/
  fmt : Format
  /-- S5 `S.PURPOSE`: the alignment class. -/
  purpose : Purpose
  deriving DecidableEq, Repr

/-- A packed pixel value in one of the two formats (R8, R81: "all bit patterns are valid"). -/
inductive Pixel where
  | a (w : Word)
  | b (h : Half)
  deriving DecidableEq, Repr

/-- One request of the block on its memory port (R63): a read of `size` bytes, or a write of one pixel. -/
inductive MemAccess where
  | read (addr : Word) (size : Nat)
  | write (addr : Word) (px : Pixel)
  deriving DecidableEq, Repr

/-- The eight response statuses (R54). -/
inductive Status where
  | ok | errIllegal | errOperand | errNosurf | errBusy | errAlign | errRange | errIndex
  deriving DecidableEq, Repr

/-- A response: status, flag and data (R53). -/
structure Response where
  status : Status
  flag : Bool
  data : Word
  deriving DecidableEq, Repr

/-- Where the block stands in the sequence of R51. Exactly one holds, so at most one command is in flight. Log entry 2. -/
inductive Phase where
  /-- `cmd_ready = 1`, `rsp_valid = 0`: the block accepts a command. -/
  | idle
  /-- A command has been transferred and not yet executed. -/
  | executing (w : Command)
  /-- `rsp_valid = 1`: the response is presented and held until it is taken. -/
  | responding (r : Response)
  deriving DecidableEq, Repr

/-- What the host drives on the block's input pins at one step (R63): `rst`, `cmd_valid` with `cmd_op` and `cmd_p0` to
`cmd_p3`, and `rsp_ready`. -/
structure Pins where
  rst : Bool
  cmd : Option Command
  rspReady : Bool
  deriving DecidableEq, Repr

/-- What moves at one step (R14): the block's clock with its input pins, or an access to memory by an agent outside the
block. Log entry 3. -/
inductive Input where
  /-- The block sees these pins. -/
  | cycle (p : Pins)
  /-- The host writes a byte of memory directly, through an uncached view (R44). The spec gives a host access no width:
  DESIGN CHOICE, one byte, a wider access being several inputs. Log entry 21. -/
  | hostWrite (addr : Word) (v : Byte)
  /-- The host reads a byte of memory directly (R44). DESIGN CHOICE: one byte, as for a write. Log entry 21. -/
  | hostRead (addr : Word)
  /-- The display scanner reads a byte of memory (R14, R40). DESIGN CHOICE: one byte; its width "is not in the source"
  (R40). Log entry 21. -/
  | scannerRead (addr : Word)
  deriving DecidableEq, Repr

/-- Memory: address and byte pairs, addresses strictly rising. An address that is not listed has never been written and
holds no value in the list; what a read of it gives is `readByte`'s. Log entry 4. -/
abbrev Memory := List Host.Cell

/-- The machine: the descriptor (R12), memory (R30), the sequencing of the ports (R51, R63), and two fields of the model's
own, the accesses of the command in flight and the coming inputs. -/
structure State where
  /-- `S`: `none` while `S.VALID = 0` (R12, R18). Log entry 1. -/
  surface : Option Surface
  /-- Memory (R30, R31). -/
  mem : Memory
  /-- Command and response port (R51, R63). -/
  phase : Phase
  /-- Memory port (R63): the accesses made for the latest accepted command, in order. Log entry 10. -/
  bus : List MemAccess
  /-- What the environment does at the coming steps, first first. Log entry 3. -/
  inputs : List Input
  deriving DecidableEq, Repr

/-- Why the machine stops with a fault. No error status of the spec is a fault: each is a response (R161). -/
inductive Fault where
  /-- Raised by a pixel access at an address that is no multiple of its size: "A misaligned access therefore cannot occur
  and the spec gives it no behaviour" (R34). Only a descriptor that breaks R13 leads here, and no run reaches one. Safe: the
  model stops where the spec says nothing. Log entry 9. -/
  | misalignedAccess
  deriving DecidableEq, Repr

/-- Why the machine refuses a step. -/
inductive Refusal where
  /-- Raised by `exec` for a command without a meaning; there is none left. Safe: nothing is claimed of the command. -/
  | notModelled (mnemonic : String)
  /-- Raised by a direct access of the host to surface memory while a command is in flight: "outside the spec's model" (R44,
  U11). Safe: nothing is claimed of such a run. Log entry 11. -/
  | hostAccessInFlight
  deriving DecidableEq, Repr

/-- The outcome of a step or of a command. -/
abbrev Result := Host.Outcome State Fault Refusal

/-- The machine right after reset (R18, R180): no surface, the block idle. Memory lists nothing (log 4), no access has been
made (log 10) and no input is waiting (log 3). -/
def State.reset : State :=
  { surface := none, mem := [], phase := .idle, bus := [], inputs := [] }

end Sys2Proof.Machine
end

