-- ==== Sys2Proof/Machine/Color.lean ====
section
/-! DEFINITION. The two packed layouts, the conversions between them, the gamma encode over a given remap, and the named
colours: pure functions of their operands (R70, R90 to R95, R100, R103). -/

namespace Sys2Proof.Machine

/-- `PackA(r, g, b, a) = (r << 24) | (g << 16) | (b << 8) | a` (R70). -/
def packWordA (r g b a : Byte) : Word :=
  (r.setWidth 32 <<< 24) ||| (g.setWidth 32 <<< 16) ||| (b.setWidth 32 <<< 8) ||| a.setWidth 32

/-- `PackB(r, g, b, a) = (r << 11) | (g << 6) | (b << 1) | a` (R70). -/
def packWordB (r g b : BitVec 5) (a : BitVec 1) : Half :=
  (r.setWidth 16 <<< 11) ||| (g.setWidth 16 <<< 6) ||| (b.setWidth 16 <<< 1) ||| a.setWidth 16

/-- `RA(w) = w[31:24]` (R70). -/
def redA (w : Word) : Byte := w.extractLsb' 24 8
/-- `GA(w) = w[23:16]` (R70). -/
def greenA (w : Word) : Byte := w.extractLsb' 16 8
/-- `BA(w) = w[15:8]` (R70). -/
def blueA (w : Word) : Byte := w.extractLsb' 8 8
/-- `AA(w) = w[7:0]` (R70). -/
def alphaA (w : Word) : Byte := w.extractLsb' 0 8

/-- `RB(w) = w[15:11]` (R70). -/
def redB (w : Half) : BitVec 5 := w.extractLsb' 11 5
/-- `GB(w) = w[10:6]` (R70). -/
def greenB (w : Half) : BitVec 5 := w.extractLsb' 6 5
/-- `BB(w) = w[5:1]` (R70). -/
def blueB (w : Half) : BitVec 5 := w.extractLsb' 1 5
/-- `AB(w) = w[0]` (R70). -/
def alphaB (w : Half) : BitVec 1 := w.extractLsb' 0 1

/-- `Trunc5(c) = c[7:3]` (R90). -/
def trunc5 (c : Byte) : BitVec 5 := c.extractLsb' 3 5

/-- `Quant1(a) = a[7]` (R92). -/
def quant1 (a : Byte) : BitVec 1 := a.extractLsb' 7 1

/-- `Expand8(v) = (v << 3) | (v >> 2)` (R94). -/
def expand8 (v : BitVec 5) : Byte := (v.setWidth 8 <<< 3) ||| (v.setWidth 8 >>> 2)

/-- `ExpandA(a) = 0xFF if a = 1 else 0x00` (R94). -/
def expandA (a : BitVec 1) : Byte := if a = 1 then 0xFF else 0x00

/-- `CvtAB` (R91). -/
def cvtWordAB (w : Word) : Half :=
  packWordB (trunc5 (redA w)) (trunc5 (greenA w)) (trunc5 (blueA w)) (quant1 (alphaA w))

/-- `CvtBA` (R93). -/
def cvtWordBA (w : Half) : Word :=
  packWordA (expand8 (redB w)) (expand8 (greenB w)) (expand8 (blueB w)) (expandA (alphaB w))

/-- The gamma encode of Format A under a remap: "alpha untouched" (R100, R101). -/
def gammaWordA (remap : Byte → Byte) (r g b a : Byte) : Word := packWordA (remap r) (remap g) (remap b) a

/-- The gamma encode of Format B under a remap (R100, R102). -/
def gammaWordB (remap : BitVec 5 → BitVec 5) (r g b : BitVec 5) (a : BitVec 1) : Half :=
  packWordB (remap r) (remap g) (remap b) a

/-- The eight named colours, in the order of their index (R103). -/
inductive Colour where
  | black | red | green | blue | yellow | magenta | cyan | white
  deriving DecidableEq, Repr

/-- The Format A words of the named colours (R103, R105 to R112). -/
def colourA : Colour → Word
  | .black => packWordA 0 0 0 255
  | .red => packWordA 255 0 0 255
  | .green => packWordA 0 255 0 255
  | .blue => packWordA 0 0 255 255
  | .yellow => packWordA 255 255 0 255
  | .magenta => packWordA 255 0 255 255
  | .cyan => packWordA 0 255 255 255
  | .white => packWordA 255 255 255 255

/-- The Format B words of the named colours (R103, R113 to R120). -/
def colourB : Colour → Half
  | .black => packWordB 0 0 0 1
  | .red => packWordB 31 0 0 1
  | .green => packWordB 0 31 0 1
  | .blue => packWordB 0 0 31 1
  | .yellow => packWordB 31 31 0 1
  | .magenta => packWordB 31 0 31 1
  | .cyan => packWordB 0 31 31 1
  | .white => packWordB 31 31 31 1

/-- `Native(c, 0)`: a Format A colour in the surface's native format (R145). -/
def nativeA (c : Word) : Format → Pixel
  | .a => .a c
  | .b => .b (cvtWordAB c)

/-- `Native(c, 1)`: a Format B colour in the surface's native format (R145). -/
def nativeB (c : Half) : Format → Pixel
  | .a => .a (cvtWordBA c)
  | .b => .b c

end Sys2Proof.Machine
end

