-- ==== Sys2Proof/Machine/Operands.lean ====
section
/-! DEFINITION. Operand formats (R56): which bits of which operand word carry an operand, the used-bit masks of the
operand check (R57), and the one place where an operand is read out of its word. -/

namespace Sys2Proof.Machine

/-- The used-bit masks `M0` to `M3` of R56. -/
def formatMask : OperandFormat → Operands
  | .n0 => ⟨0, 0, 0, 0⟩
  | .ch8 => ⟨0xFF, 0xFF, 0xFF, 0xFF⟩
  | .ch5 => ⟨0x1F, 0x1F, 0x1F, 0x01⟩
  | .w32 => ⟨0xFFFFFFFF, 0, 0, 0⟩
  | .w16 => ⟨0xFFFF, 0, 0, 0⟩
  | .set => ⟨0xFFFFFFFF, 0xFFFFFFFF, 0x3, 0⟩
  | .xy => ⟨0xFFFFFFFF, 0xFFFFFFFF, 0, 0⟩
  | .idx => ⟨0xFFFFFFFF, 0, 0, 0⟩
  | .xyc32 => ⟨0xFFFFFFFF, 0xFFFFFFFF, 0xFFFFFFFF, 0⟩
  | .xyc16 => ⟨0xFFFFFFFF, 0xFFFFFFFF, 0xFFFF, 0⟩
  | .idxc32 => ⟨0xFFFFFFFF, 0xFFFFFFFF, 0, 0⟩
  | .idxc16 => ⟨0xFFFFFFFF, 0xFFFF, 0, 0⟩

/-- No bit of an operand word stands outside its mask (R57). -/
def fits (w mask : Word) : Bool := (w &&& ~~~mask) == 0

/-- The operand check of R57 over all four words, unused words too. -/
def inFormat (f : OperandFormat) (p : Operands) : Bool :=
  fits p.p0 (formatMask f).p0 && fits p.p1 (formatMask f).p1 &&
    fits p.p2 (formatMask f).p2 && fits p.p3 (formatMask f).p3

/-- An 8-bit channel in the low bits of its word (R56, CH8). -/
def chan8 (w : Word) : Byte := w.extractLsb' 0 8

/-- A 5-bit channel in the low bits of its word (R56, CH5). -/
def chan5 (w : Word) : BitVec 5 := w.extractLsb' 0 5

/-- A one-bit alpha in bit 0 of its word (R56, CH5). -/
def chan1 (w : Word) : BitVec 1 := w.extractLsb' 0 1

/-- A 16-bit word in the low half of its word (R56, W16, XYC16, IDXC16). -/
def half (w : Word) : Half := w.extractLsb' 0 16

/-- `width = P[1][15:0]` (R56, SET). -/
def widthField (w : Word) : Half := w.extractLsb' 0 16

/-- `height = P[1][31:16]` (R56, SET). -/
def heightField (w : Word) : Half := w.extractLsb' 16 16

/-- `fmt = P[2][0]` (R56, SET; the format code of R8). -/
def fmtField (w : Word) : Format := if w.getLsbD 0 then .b else .a

/-- `purpose = P[2][1]` (R56, SET; R131). -/
def purposeField (w : Word) : Purpose := if w.getLsbD 1 then .displayFramebuffer else .generalBuffer

/-- A coordinate: "`signed(w)` reads the 32-bit word `w` as a two's complement integer" (R6, R56). -/
def coord (w : Word) : Int := w.toInt

/-- The operand format of each command: the third column of R55. -/
def instrFormat : Instr → OperandFormat
  | .packA _ => .ch8
  | .packB _ => .ch5
  | .chanAR _ => .w32
  | .chanAG _ => .w32
  | .chanAB _ => .w32
  | .chanAA _ => .w32
  | .chanBR _ => .w16
  | .chanBG _ => .w16
  | .chanBB _ => .w16
  | .chanBA _ => .w16
  | .cvtAB _ => .w32
  | .cvtBA _ => .w16
  | .gammaA _ => .ch8
  | .gammaB _ => .ch5
  | .constABlack _ => .n0
  | .constARed _ => .n0
  | .constAGreen _ => .n0
  | .constABlue _ => .n0
  | .constAYellow _ => .n0
  | .constAMagenta _ => .n0
  | .constACyan _ => .n0
  | .constAWhite _ => .n0
  | .constBBlack _ => .n0
  | .constBRed _ => .n0
  | .constBGreen _ => .n0
  | .constBBlue _ => .n0
  | .constBYellow _ => .n0
  | .constBMagenta _ => .n0
  | .constBCyan _ => .n0
  | .constBWhite _ => .n0
  | .surfSet _ => .set
  | .surfClr _ => .n0
  | .surfBase _ => .n0
  | .surfWidth _ => .n0
  | .surfHeight _ => .n0
  | .surfCount _ => .n0
  | .surfAttr _ => .n0
  | .surfOffs _ => .xy
  | .surfAddr _ => .xy
  | .surfLoad _ => .idx
  | .drawA _ => .xyc32
  | .storeA _ => .idxc32
  | .drawB _ => .xyc16
  | .storeB _ => .idxc16

end Sys2Proof.Machine
end

