-- ==== Sys2Proof/Machine/Ops.lean ====
section
/-! DEFINITION. The named operations every meaning is written with: memory, the functions of the descriptor, responding,
raising an error (the one operation that takes the place of exception entry, R167), and the pixel accesses. -/

namespace Sys2Proof.Machine

/-! ### Memory (R30, R33) -/

/-- The byte that was last written at an address, if any was. -/
def lookup : Memory → Nat → Option Byte
  | [], _ => none
  | (k, v) :: m, a => if a = k then some v else lookup m a

/-- What a read of one byte gives: the byte last written (R36); where nothing has written, "whatever the memory held"
(R146), the free `Config.initialByte` of the address (log entry 4). -/
def readByte (m : Memory) (a : Nat) : Byte :=
  match lookup m a with
  | some v => v
  | none => Config.initialByte a

/-- Write one byte, keeping the addresses strictly rising. -/
def writeByte : Memory → Nat → Byte → Memory
  | [], a, v => [(a, v)]
  | (k, w) :: m, a, v =>
    if a < k then (a, v) :: (k, w) :: m
    else if a = k then (a, v) :: m
    else (k, w) :: writeByte m a v

/-- Addresses strictly rising, from `lo` on and below 2^32. -/
def wfFrom (lo : Nat) : Memory → Bool
  | [] => true
  | (k, _) :: m => decide (lo ≤ k) && decide (k < 2 ^ 32) && wfFrom (k + 1) m

/-- The canonical form of memory: addresses strictly rising and inside the address space (R30). An unlisted address holds
no value, so no entry equals what an unlisted address holds. Log entry 4. -/
def Memory.wf (m : Memory) : Bool := wfFrom 0 m

/-- `MemRead` of a pixel, big-endian (R33). -/
def readPixel (m : Memory) (a : Nat) : Format → Pixel
  | .a => .a ((readByte m a ++ readByte m (a + 1) ++ readByte m (a + 2) ++ readByte m (a + 3)).cast (by decide))
  | .b => .b ((readByte m a ++ readByte m (a + 1)).cast (by decide))

/-- `MemWrite` of a pixel, big-endian (R33). -/
def writePixel (m : Memory) (a : Nat) : Pixel → Memory
  | .a v =>
    writeByte (writeByte (writeByte (writeByte m a (v.extractLsb' 24 8)) (a + 1) (v.extractLsb' 16 8))
      (a + 2) (v.extractLsb' 8 8)) (a + 3) (v.extractLsb' 0 8)
  | .b v => writeByte (writeByte m a (v.extractLsb' 8 8)) (a + 1) (v.extractLsb' 0 8)

/-! ### Pixels -/

/-- `PSIZE(f)`: 4 bytes in Format A, 2 bytes in Format B (R5, R8). -/
def pixelBytes : Format → Nat
  | .a => 4
  | .b => 2

/-- The format of a packed pixel. -/
def Pixel.fmt : Pixel → Format
  | .a _ => .a
  | .b _ => .b

/-- A pixel in the data word of a response: "a Format B word stands in `data[15:0]` with `data[31:16] = 0`" (R53). -/
def Pixel.data : Pixel → Word
  | .a w => w
  | .b h => h.setWidth 32

/-! ### Functions of the descriptor (R13) -/

/-- `PSIZE` of a surface (R13). -/
def Surface.psize (d : Surface) : Nat := pixelBytes d.fmt

/-- `ALIGN = max(16 if PURPOSE = 0 else DisplayAlign, PSIZE)` (R13, R131), over a given `DisplayAlign`. -/
def alignOf (displayAlign : Nat) (purpose : Purpose) (fmt : Format) : Nat :=
  max (match purpose with | .generalBuffer => 16 | .displayFramebuffer => displayAlign) (pixelBytes fmt)

/-- `COUNT = WIDTH * HEIGHT` (R13). -/
def Surface.count (d : Surface) : Nat := d.width.toNat * d.height.toNat

/-- `SIZE = COUNT * PSIZE` (R13). -/
def Surface.size (d : Surface) : Nat := d.count * d.psize

/-- `Offset(x, y) = x + y * W` of a hit (R142). A hit has no negative coordinate, so nothing is lost. -/
def Surface.offset (d : Surface) (x y : Int) : Nat := x.toNat + y.toNat * d.width.toNat

/-- `(BASE + k * PSIZE) mod 2^32`: the address of pixel number `k` (R34, R142, R147). -/
def Surface.pixelAddr (d : Surface) (k : Nat) : Word := BitVec.ofNat 32 (d.base.toNat + k * d.psize)

/-- `Addr(x, y)` of a hit (R142). -/
def Surface.pointAddr (d : Surface) (x y : Int) : Word := d.pixelAddr (d.offset x y)

/-- The byte at address `a` belongs to the surface: `S.BASE` to `S.BASE + SIZE - 1` (R31). -/
def Surface.owns (d : Surface) (a : Nat) : Bool :=
  decide (d.base.toNat ≤ a) && decide (a < d.base.toNat + d.size)

/-- The surface the block holds owns the byte at address `a`: "and nothing otherwise" (R31). -/
def State.ownsByte (s : State) (a : Nat) : Bool :=
  match s.surface with
  | some d => d.owns a
  | none => false

/-! ### Responding -/

/-- Present a response on the response port (R51). -/
def State.present (s : State) (r : Response) : State := { s with phase := .responding r }

/-- `respond(flag, data)`: end the command with status `OK` (R7). -/
def State.respond (s : State) (flag : Bool) (data : Word) : Result :=
  .next (s.present { status := .ok, flag := flag, data := data })

/-- The state after `raise E` (R7, R161): the error is presented, nothing else changes. -/
def State.erred (s : State) (e : Status) : State := s.present { status := e, flag := false, data := 0 }

/-- `raise E`: end the command with the error status, "`flag = 0`, `data = 0`, no write to the descriptor and no memory
access" (R7, R161). The whole of the entry is this response (R167). -/
def State.raise (s : State) (e : Status) : Result := .next (s.erred e)

/-- The response that stands on the response port, if one does. -/
def State.response (s : State) : Option Response :=
  match s.phase with
  | .idle => none
  | .executing _ => none
  | .responding r => some r

/-- The response has been taken: the return to idle (R51). "There is no trap return" beside it (R169). -/
def State.takeResponse (s : State) : State := { s with phase := .idle }

/-! ### The checks a command begins with (R165) -/

/-- Step 2 of R165: `ERR_OPERAND` unless every operand bit outside the format is 0 (R57). -/
def checkOperands (f : OperandFormat) (p : Operands) (s : State) (k : Result) : Result :=
  if inFormat f p then k else s.raise .errOperand

/-- Step 3 of R165: the valid test (R130), and the descriptor for what follows. -/
def withSurface (s : State) (k : Surface → Result) : Result :=
  match s.surface with
  | none => s.raise .errNosurf
  | some d => k d

/-- Step 6 of R165: `ERR_INDEX` unless the index is below `COUNT` (R146, R151, R152). -/
def checkIndex (idx : Word) (d : Surface) (s : State) (k : Result) : Result :=
  if idx.toNat < d.count then k else s.raise .errIndex

/-! ### Pixel accesses (R35): one request on the memory port each -/

/-- The state after a read request of `size` bytes at `a`. -/
def State.requestRead (s : State) (a : Word) (size : Nat) : State := { s with bus := s.bus ++ [.read a size] }

/-- The state after a write request of one pixel at `a`, the pixel stored. -/
def State.requestWrite (s : State) (a : Word) (px : Pixel) : State :=
  { s with bus := s.bus ++ [.write a px], mem := writePixel s.mem a.toNat px }

/-- Natural alignment of a pixel access (R34). -/
def aligned (a : Word) (f : Format) : Bool := a.toNat % pixelBytes f == 0

/-- Read one pixel and respond with it, unconverted (R146). -/
def loadPixel (s : State) (a : Word) (f : Format) : Result :=
  if aligned a f then
    (s.requestRead a (pixelBytes f)).respond false (readPixel s.mem a.toNat f).data
  else .fault .misalignedAccess

/-- Write one pixel, with no read before it (R35), and respond `OK, 0, 0`. -/
def storePixel (s : State) (a : Word) (px : Pixel) : Result :=
  if aligned a px.fmt then (s.requestWrite a px).respond false 0
  else .fault .misalignedAccess

end Sys2Proof.Machine
end

