-- ==== Sys2Proof/Machine/Flags.lean ====
section
/-! DEFINITION. The one flag of the block: the hit bit of a response (R53), which is the bounds test of a point (R141). "The
block has no status flags, condition codes or predicates" (R15). -/

namespace Sys2Proof.Machine

/-- `InBounds(x, y)`, a comparison between mathematical integers (R141). -/
def inBounds (policy : BoundsPolicy) (d : Surface) (x y : Int) : Bool :=
  match policy with
  | .strict => decide (0 ≤ x) && decide (x < d.width.toNat) && (decide (0 ≤ y) && decide (y < d.height.toNat))
  | .inclusive => decide (0 ≤ x) && decide (x ≤ d.width.toNat) && (decide (0 ≤ y) && decide (y ≤ d.height.toNat))

end Sys2Proof.Machine
end

