-- ==== Sys2Proof/Machine/Address.lean ====
section
/-! DEFINITION. The SURF family, part 2: bounds test, offset, address, and the pixel read (R143, R144, R146). -/

namespace Sys2Proof.Machine

/-- The common form of `SURF.OFFS` and `SURF.ADDR` (R143, R144): flag 1 and a word of the point on a hit, `OK, 0, 0` on a
miss, over a given bounds policy. -/
def locatePoint (policy : BoundsPolicy) (p : Operands) (s : State) (answer : Surface → Int → Int → Word) : Result :=
  checkOperands .xy p s <| withSurface s fun d =>
    if inBounds policy d (coord p.p0) (coord p.p1) then s.respond true (answer d (coord p.p0) (coord p.p1))
    else s.respond false 0

/-- `SURF.OFFS` over a given bounds policy (R143). -/
def surfOffsOver (policy : BoundsPolicy) (p : Operands) (s : State) : Result :=
  locatePoint policy p s fun d x y => BitVec.ofNat 32 (d.offset x y)

/-- `SURF.ADDR` over a given bounds policy (R144). -/
def surfAddrOver (policy : BoundsPolicy) (p : Operands) (s : State) : Result :=
  locatePoint policy p s fun d x y => d.pointAddr x y

/-- `SURF.OFFS` (R143). -/
def execSurfOffs (p : Operands) (s : State) : Result := surfOffsOver Config.boundsPolicy p s

/-- `SURF.ADDR` (R144). -/
def execSurfAddr (p : Operands) (s : State) : Result := surfAddrOver Config.boundsPolicy p s

/-- `SURF.LOAD` (R146). -/
def execSurfLoad (p : Operands) (s : State) : Result :=
  checkOperands .idx p s <| withSurface s fun d => checkIndex p.p0 d s <|
    loadPixel s (d.pixelAddr p.p0.toNat) d.fmt

end Sys2Proof.Machine
end

