-- ==== Sys2Proof/Machine/Const.lean ====
section
/-! DEFINITION. The CONST family: the eight named colours in both formats (R105 to R120). -/

namespace Sys2Proof.Machine

/-- The common form of the sixteen commands: no operand, a fixed word (R103, R104). -/
def respondConstant (p : Operands) (s : State) (v : Word) : Result :=
  checkOperands .n0 p s <| s.respond false v

/-- `CONST.A.BLACK` (R105). -/
def execConstABlack (p : Operands) (s : State) : Result :=
  respondConstant p s (colourA .black)

/-- `CONST.A.RED` (R106). -/
def execConstARed (p : Operands) (s : State) : Result :=
  respondConstant p s (colourA .red)

/-- `CONST.A.GREEN` (R107). -/
def execConstAGreen (p : Operands) (s : State) : Result :=
  respondConstant p s (colourA .green)

/-- `CONST.A.BLUE` (R108). -/
def execConstABlue (p : Operands) (s : State) : Result :=
  respondConstant p s (colourA .blue)

/-- `CONST.A.YELLOW` (R109). -/
def execConstAYellow (p : Operands) (s : State) : Result :=
  respondConstant p s (colourA .yellow)

/-- `CONST.A.MAGENTA` (R110). -/
def execConstAMagenta (p : Operands) (s : State) : Result :=
  respondConstant p s (colourA .magenta)

/-- `CONST.A.CYAN` (R111). -/
def execConstACyan (p : Operands) (s : State) : Result :=
  respondConstant p s (colourA .cyan)

/-- `CONST.A.WHITE` (R112). -/
def execConstAWhite (p : Operands) (s : State) : Result :=
  respondConstant p s (colourA .white)

/-- `CONST.B.BLACK` (R113). -/
def execConstBBlack (p : Operands) (s : State) : Result :=
  respondConstant p s ((colourB .black).setWidth 32)

/-- `CONST.B.RED` (R114). -/
def execConstBRed (p : Operands) (s : State) : Result :=
  respondConstant p s ((colourB .red).setWidth 32)

/-- `CONST.B.GREEN` (R115). -/
def execConstBGreen (p : Operands) (s : State) : Result :=
  respondConstant p s ((colourB .green).setWidth 32)

/-- `CONST.B.BLUE` (R116). -/
def execConstBBlue (p : Operands) (s : State) : Result :=
  respondConstant p s ((colourB .blue).setWidth 32)

/-- `CONST.B.YELLOW` (R117). -/
def execConstBYellow (p : Operands) (s : State) : Result :=
  respondConstant p s ((colourB .yellow).setWidth 32)

/-- `CONST.B.MAGENTA` (R118). -/
def execConstBMagenta (p : Operands) (s : State) : Result :=
  respondConstant p s ((colourB .magenta).setWidth 32)

/-- `CONST.B.CYAN` (R119). -/
def execConstBCyan (p : Operands) (s : State) : Result :=
  respondConstant p s ((colourB .cyan).setWidth 32)

/-- `CONST.B.WHITE` (R120). -/
def execConstBWhite (p : Operands) (s : State) : Result :=
  respondConstant p s ((colourB .white).setWidth 32)

end Sys2Proof.Machine
end

