-- ==== Sys2Proof/Machine/Convert.lean ====
section
/-! DEFINITION. The CVT family (R91, R93). -/

namespace Sys2Proof.Machine

/-- `CVT.AB` (R91). -/
def execCvtAB (p : Operands) (s : State) : Result :=
  checkOperands .w32 p s <| s.respond false ((cvtWordAB p.p0).setWidth 32)

/-- `CVT.BA` (R93). -/
def execCvtBA (p : Operands) (s : State) : Result :=
  checkOperands .w16 p s <| s.respond false (cvtWordBA (half p.p0))

end Sys2Proof.Machine
end

