-- ==== Sys2Proof/Machine/Descriptor.lean ====
section
/-! DEFINITION. The SURF family, part 1: set, clear and query the surface descriptor (R131 to R137). -/

namespace Sys2Proof.Machine

/-- The surface that the operands of `SURF.SET` describe (R131, R56). -/
def describedSurface (p : Operands) : Surface :=
  { base := p.p0, width := widthField p.p1, height := heightField p.p1,
    fmt := fmtField p.p2, purpose := purposeField p.p2 }

/-- Steps 4 and 5 of R165 and the write of all six fields in one step (R131), over a given `DisplayAlign`. -/
def setSurface (displayAlign : Nat) (d : Surface) (s : State) : Result :=
  if d.base.toNat % alignOf displayAlign d.purpose d.fmt ≠ 0 then s.raise .errAlign
  else if d.base.toNat + d.size > 2 ^ 32 then s.raise .errRange
  else State.respond { s with surface := some d } false 0

/-- `SURF.SET` over a given `DisplayAlign` (R131): busy comes before alignment and range (R165). -/
def surfSetOver (displayAlign : Nat) (p : Operands) (s : State) : Result :=
  checkOperands .set p s <|
    match s.surface with
    | some _ => s.raise .errBusy
    | none => setSurface displayAlign (describedSurface p) s

/-- `SURF.SET` (R131). `DisplayAlign` is an open parameter of the block (log entry 6). -/
def execSurfSet (p : Operands) (s : State) : Result := surfSetOver Config.displayAlign p s

/-- `SURF.CLR` (R132): `S.VALID <- 0`, after which the other fields hold no value (U2, log entry 1). -/
def execSurfClr (p : Operands) (s : State) : Result :=
  checkOperands .n0 p s <| withSurface s fun _ => State.respond { s with surface := none } false 0

/-- A query of the descriptor: no operand, one word of the descriptor (R133 to R137). -/
def queryDescriptor (p : Operands) (s : State) (answer : Surface → Word) : Result :=
  checkOperands .n0 p s <| withSurface s fun d => s.respond false (answer d)

/-- `{S.PURPOSE, S.FMT}` zero-extended (R137; the codes of R8 and R12). -/
def attrWord (d : Surface) : Word :=
  (match d.purpose with | .generalBuffer => 0 | .displayFramebuffer => 2) |||
    (match d.fmt with | .a => 0 | .b => 1)

/-- `SURF.BASE` (R133). -/
def execSurfBase (p : Operands) (s : State) : Result := queryDescriptor p s fun d => d.base

/-- `SURF.WIDTH` (R134). -/
def execSurfWidth (p : Operands) (s : State) : Result := queryDescriptor p s fun d => d.width.setWidth 32

/-- `SURF.HEIGHT` (R135). -/
def execSurfHeight (p : Operands) (s : State) : Result := queryDescriptor p s fun d => d.height.setWidth 32

/-- `SURF.COUNT` (R136). -/
def execSurfCount (p : Operands) (s : State) : Result := queryDescriptor p s fun d => BitVec.ofNat 32 d.count

/-- `SURF.ATTR` (R137). -/
def execSurfAttr (p : Operands) (s : State) : Result := queryDescriptor p s attrWord

end Sys2Proof.Machine
end

