-- ==== Sys2Proof/Machine/Draw.lean ====
section
/-! DEFINITION. The PIX family: draw a point, store a pixel by index (R148, R149, R151, R152). -/

namespace Sys2Proof.Machine

/-- Draw one pixel: on a hit one write at `Addr(x, y)`, on a miss nothing, and `OK, 0, 0` alike (R148, R162). -/
def drawPixel (policy : BoundsPolicy) (d : Surface) (x y : Int) (px : Pixel) (s : State) : Result :=
  if inBounds policy d x y then storePixel s (d.pointAddr x y) px else s.respond false 0

/-- `DRAW.A` over a given bounds policy (R148). -/
def drawOverA (policy : BoundsPolicy) (p : Operands) (s : State) : Result :=
  checkOperands .xyc32 p s <| withSurface s fun d =>
    drawPixel policy d (coord p.p0) (coord p.p1) (nativeA p.p2 d.fmt) s

/-- `DRAW.B` over a given bounds policy (R149). -/
def drawOverB (policy : BoundsPolicy) (p : Operands) (s : State) : Result :=
  checkOperands .xyc16 p s <| withSurface s fun d =>
    drawPixel policy d (coord p.p0) (coord p.p1) (nativeB (half p.p2) d.fmt) s

/-- `DRAW.A` (R148). -/
def execDrawA (p : Operands) (s : State) : Result := drawOverA Config.boundsPolicy p s

/-- `DRAW.B` (R149). -/
def execDrawB (p : Operands) (s : State) : Result := drawOverB Config.boundsPolicy p s

/-- `STORE.A` (R151). -/
def execStoreA (p : Operands) (s : State) : Result :=
  checkOperands .idxc32 p s <| withSurface s fun d => checkIndex p.p0 d s <|
    storePixel s (d.pixelAddr p.p0.toNat) (nativeA p.p1 d.fmt)

/-- `STORE.B` (R152). -/
def execStoreB (p : Operands) (s : State) : Result :=
  checkOperands .idxc16 p s <| withSurface s fun d => checkIndex p.p0 d s <|
    storePixel s (d.pixelAddr p.p0.toNat) (nativeB (half p.p1) d.fmt)

end Sys2Proof.Machine
end

