-- ==== Sys2Proof/Machine/Gamma.lean ====
section
/-! DEFINITION. The GAMMA family (R101, R102). The remap is an open parameter of the block (R100, log entry 7). -/

namespace Sys2Proof.Machine

/-- `GAMMA.A` over a given `GammaRemap8` (R101). -/
def gammaOverA (remap : Byte → Byte) (p : Operands) (s : State) : Result :=
  checkOperands .ch8 p s <|
    s.respond false (gammaWordA remap (chan8 p.p0) (chan8 p.p1) (chan8 p.p2) (chan8 p.p3))

/-- `GAMMA.B` over a given `GammaRemap5` (R102). -/
def gammaOverB (remap : BitVec 5 → BitVec 5) (p : Operands) (s : State) : Result :=
  checkOperands .ch5 p s <|
    s.respond false ((gammaWordB remap (chan5 p.p0) (chan5 p.p1) (chan5 p.p2) (chan1 p.p3)).setWidth 32)

/-- `GAMMA.A` (R101). -/
def execGammaA (p : Operands) (s : State) : Result := gammaOverA Config.gammaRemap8 p s

/-- `GAMMA.B` (R102). -/
def execGammaB (p : Operands) (s : State) : Result := gammaOverB Config.gammaRemap5 p s

end Sys2Proof.Machine
end

