-- ==== Sys2Proof/Machine/Pack.lean ====
section
/-! DEFINITION. The PACK and CHAN families (R71 to R80). -/

namespace Sys2Proof.Machine

/-- `PACK.A` (R71). -/
def execPackA (p : Operands) (s : State) : Result :=
  checkOperands .ch8 p s <|
    s.respond false (packWordA (chan8 p.p0) (chan8 p.p1) (chan8 p.p2) (chan8 p.p3))

/-- `PACK.B` (R72). -/
def execPackB (p : Operands) (s : State) : Result :=
  checkOperands .ch5 p s <|
    s.respond false ((packWordB (chan5 p.p0) (chan5 p.p1) (chan5 p.p2) (chan1 p.p3)).setWidth 32)

/-- `CHAN.A.R` (R73). -/
def execChanAR (p : Operands) (s : State) : Result :=
  checkOperands .w32 p s <| s.respond false ((redA p.p0).setWidth 32)

/-- `CHAN.A.G` (R74). -/
def execChanAG (p : Operands) (s : State) : Result :=
  checkOperands .w32 p s <| s.respond false ((greenA p.p0).setWidth 32)

/-- `CHAN.A.B` (R75). -/
def execChanAB (p : Operands) (s : State) : Result :=
  checkOperands .w32 p s <| s.respond false ((blueA p.p0).setWidth 32)

/-- `CHAN.A.A` (R76): the full-range alpha. -/
def execChanAA (p : Operands) (s : State) : Result :=
  checkOperands .w32 p s <| s.respond false ((alphaA p.p0).setWidth 32)

/-- `CHAN.B.R` (R77). -/
def execChanBR (p : Operands) (s : State) : Result :=
  checkOperands .w16 p s <| s.respond false ((redB (half p.p0)).setWidth 32)

/-- `CHAN.B.G` (R78). -/
def execChanBG (p : Operands) (s : State) : Result :=
  checkOperands .w16 p s <| s.respond false ((greenB (half p.p0)).setWidth 32)

/-- `CHAN.B.B` (R79). -/
def execChanBB (p : Operands) (s : State) : Result :=
  checkOperands .w16 p s <| s.respond false ((blueB (half p.p0)).setWidth 32)

/-- `CHAN.B.A` (R80): 0 or 1, never 0xFF. -/
def execChanBA (p : Operands) (s : State) : Result :=
  checkOperands .w16 p s <| s.respond false ((alphaB (half p.p0)).setWidth 32)

end Sys2Proof.Machine
end

