-- ==== Sys2Proof/Machine/Dispatch.lean ====
section
/-! DEFINITION. One arm per command: its meaning. -/

namespace Sys2Proof.Machine

/-- Execute one command (R14, R165). -/
def exec (i : Instr) (s : State) : Host.Outcome State Fault Refusal :=
  match i with
  | .packA p => Sys2Proof.Machine.execPackA p s
  | .packB p => Sys2Proof.Machine.execPackB p s
  | .chanAR p => Sys2Proof.Machine.execChanAR p s
  | .chanAG p => Sys2Proof.Machine.execChanAG p s
  | .chanAB p => Sys2Proof.Machine.execChanAB p s
  | .chanAA p => Sys2Proof.Machine.execChanAA p s
  | .chanBR p => Sys2Proof.Machine.execChanBR p s
  | .chanBG p => Sys2Proof.Machine.execChanBG p s
  | .chanBB p => Sys2Proof.Machine.execChanBB p s
  | .chanBA p => Sys2Proof.Machine.execChanBA p s
  | .cvtAB p => Sys2Proof.Machine.execCvtAB p s
  | .cvtBA p => Sys2Proof.Machine.execCvtBA p s
  | .gammaA p => Sys2Proof.Machine.execGammaA p s
  | .gammaB p => Sys2Proof.Machine.execGammaB p s
  | .constABlack p => Sys2Proof.Machine.execConstABlack p s
  | .constARed p => Sys2Proof.Machine.execConstARed p s
  | .constAGreen p => Sys2Proof.Machine.execConstAGreen p s
  | .constABlue p => Sys2Proof.Machine.execConstABlue p s
  | .constAYellow p => Sys2Proof.Machine.execConstAYellow p s
  | .constAMagenta p => Sys2Proof.Machine.execConstAMagenta p s
  | .constACyan p => Sys2Proof.Machine.execConstACyan p s
  | .constAWhite p => Sys2Proof.Machine.execConstAWhite p s
  | .constBBlack p => Sys2Proof.Machine.execConstBBlack p s
  | .constBRed p => Sys2Proof.Machine.execConstBRed p s
  | .constBGreen p => Sys2Proof.Machine.execConstBGreen p s
  | .constBBlue p => Sys2Proof.Machine.execConstBBlue p s
  | .constBYellow p => Sys2Proof.Machine.execConstBYellow p s
  | .constBMagenta p => Sys2Proof.Machine.execConstBMagenta p s
  | .constBCyan p => Sys2Proof.Machine.execConstBCyan p s
  | .constBWhite p => Sys2Proof.Machine.execConstBWhite p s
  | .surfSet p => Sys2Proof.Machine.execSurfSet p s
  | .surfClr p => Sys2Proof.Machine.execSurfClr p s
  | .surfBase p => Sys2Proof.Machine.execSurfBase p s
  | .surfWidth p => Sys2Proof.Machine.execSurfWidth p s
  | .surfHeight p => Sys2Proof.Machine.execSurfHeight p s
  | .surfCount p => Sys2Proof.Machine.execSurfCount p s
  | .surfAttr p => Sys2Proof.Machine.execSurfAttr p s
  | .surfOffs p => Sys2Proof.Machine.execSurfOffs p s
  | .surfAddr p => Sys2Proof.Machine.execSurfAddr p s
  | .surfLoad p => Sys2Proof.Machine.execSurfLoad p s
  | .drawA p => Sys2Proof.Machine.execDrawA p s
  | .storeA p => Sys2Proof.Machine.execStoreA p s
  | .drawB p => Sys2Proof.Machine.execDrawB p s
  | .storeB p => Sys2Proof.Machine.execStoreB p s

end Sys2Proof.Machine
end

