-- ==== Sys2Proof/Machine/Ports.lean ====
section
/-! DEFINITION. The sequencing of the ports (R51, R63), reset (R180, R181), and the agents outside the block (R14): what one
step does with one input. -/

namespace Sys2Proof.Machine

/-- All input pins low. -/
def quietPins : Pins := { rst := false, cmd := none, rspReady := false }

/-- `rst = 1` (R180): `S.VALID <- 0`, idle, "and does nothing else". A command in flight, or a response not yet taken, is
dropped (R181); memory keeps what it holds. Log entries 10 and 13. -/
def State.applyReset (s : State) : State := { s with surface := none, phase := .idle, bus := [] }

/-- The transfer of a command (R51, R63): `cmd_ready` goes low. -/
def State.accept (s : State) (w : Command) : State := { s with phase := .executing w, bus := [] }

/-- Execute the command in flight as one atomic step (R14, R51); a reserved opcode byte is `ERR_ILLEGAL` (R58, step 1 of
R165). -/
def executeCommand (w : Command) (s : State) : Result :=
  match decode w with
  | .ok i => exec i s
  | .error _ => s.raise .errIllegal

/-- The block at one step with these pins (R51, R63, R180). A transfer needs valid and ready; `rst` goes before all else
(log entry 19); a response is held until it is taken. -/
def clock (pins : Pins) (s : State) : Result :=
  if pins.rst then .next s.applyReset
  else match s.phase with
    | .idle =>
      match pins.cmd with
      | some w => .next (s.accept w)
      | none => .next s
    | .executing w => executeCommand w s
    | .responding _ => if pins.rspReady then .next s.takeResponse else .next s

/-- No command is in flight: the block is idle. -/
def isIdle : Phase → Bool
  | .idle => true
  | .executing _ => false
  | .responding _ => false

/-- The host may access this byte directly now: not a byte of the surface while a command is in flight (R44, U11). -/
def hostMayAccess (s : State) (a : Word) : Bool := isIdle s.phase || !s.ownsByte a.toNat

/-! ### What the block drives on its ports (R63) -/

/-- The 3-bit code of a status, `rsp_status` (R54). -/
def statusCode : Status → BitVec 3
  | .ok => 0
  | .errIllegal => 1
  | .errOperand => 2
  | .errNosurf => 3
  | .errBusy => 4
  | .errAlign => 5
  | .errRange => 6
  | .errIndex => 7

/-- `cmd_ready`: high exactly while the block is idle (R51). -/
def State.cmdReady (s : State) : Bool := isIdle s.phase

/-- `rsp_valid`: high exactly while a response is presented (R51). -/
def State.rspValid (s : State) : Bool := s.response.isSome

/-- `rsp_status`, `rsp_flag` and `rsp_data` (R53, R63) while `rsp_valid` is high; the spec gives these wires no value
otherwise (log entry 14). -/
def State.rspFields (s : State) : Option (BitVec 3 × Bool × Word) :=
  s.response.map fun r => (statusCode r.status, r.flag, r.data)

/-! ### The agents outside the block (R14) -/

/-- A direct write of the host (R44), one byte: DESIGN CHOICE, the spec gives no width. Log entry 21. -/
def hostWrite (a : Word) (v : Byte) (s : State) : Result :=
  if hostMayAccess s a then .next { s with mem := writeByte s.mem a.toNat v } else .refused .hostAccessInFlight

/-- A direct read of the host (R44), one byte (DESIGN CHOICE, log entry 21): nothing changes. -/
def hostRead (a : Word) (s : State) : Result :=
  if hostMayAccess s a then .next s else .refused .hostAccessInFlight

/-- What one input does (R14). A read of the scanner "constrain[s] nothing the block does" (R40, log entry 16). -/
def react (e : Input) (s : State) : Result :=
  match e with
  | .cycle pins => clock pins s
  | .hostWrite a v => hostWrite a v s
  | .hostRead a => hostRead a s
  | .scannerRead _ => .next s

/-- The input of this step: the first that waits, or quiet pins where none does. -/
def nextInput (s : State) : Input := s.inputs.headD (.cycle quietPins)

/-- The state once this step's input has been taken from the list. -/
def State.consumed (s : State) : State := { s with inputs := s.inputs.tail }

/-- One step. -/
def advance (s : State) : Result := react (nextInput s) s.consumed

/-- The state in which this command word has been transferred and the next step executes it, with quiet pins for that step
in front of the inputs that wait. Log entry 3. -/
def State.withCommand (s : State) (w : Command) : State :=
  { s.accept w with inputs := .cycle quietPins :: s.inputs }

end Sys2Proof.Machine
end

