-- ==== Sys2Proof/Machine/Step.lean ====
section
/-! DEFINITION. The step of the machine, and the state in which a given command is the next to run. -/

namespace Sys2Proof.Machine

/-- One step of the machine (R14, R51). -/
def step (s : State) : Host.Outcome State Fault Refusal := advance s

/-- The state `s` with the command whose bits are `w` transferred on the command port, so that the next step runs it. Log
entry 3. -/
def State.withFetchWord (s : State) (nbits w : Nat) : State := s.withCommand (commandOfBits nbits w)

end Sys2Proof.Machine
end

