-- ==== Sys2Proof/Machine/Pseudo.lean ====
section
/-! DEFINITION. The pseudo-commands of R62: the block's share of each, as a list of commands. The steps marked "host:" there
are outside the block. -/

namespace Sys2Proof.Machine

/-- Four operand words of 0: "Unused operand words are not written and are sent as 0" (R61). -/
def noOperands : Operands := ⟨0, 0, 0, 0⟩

/-- Commands one after the other, each response taken in between (R51). -/
def execAll : List Instr → State → Result
  | [], s => .next s
  | i :: is, s =>
    match exec i s with
    | .next t => execAll is t
    | .fault f => .fault f
    | .refused r => .refused r

/-- `DRAWPTS A, (x1,y1,c1), ...` (R62). -/
def drawPointsA (pts : List (Word × Word × Word)) : List Instr :=
  pts.map fun pt => .drawA ⟨pt.1, pt.2.1, pt.2.2, 0⟩

/-- `DRAWPTS B, (x1,y1,c1), ...` (R62). -/
def drawPointsB (pts : List (Word × Word × Half)) : List Instr :=
  pts.map fun pt => .drawB ⟨pt.1, pt.2.1, pt.2.2.setWidth 32, 0⟩

/-- `P[1] = height << 16 | width` (R61). -/
def dimensionsWord (width height : Half) : Word :=
  (height ++ width).cast (by decide)

/-- `P[2] = purpose << 1 | fmt` (R61). -/
def attributesWord (purpose : Purpose) (fmt : Format) : Word :=
  (match purpose with | .generalBuffer => 0 | .displayFramebuffer => 2) ||| (match fmt with | .a => 0 | .b => 1)

/-- `CREATE`: the block's share, `SURF.SET` of an address that the host has allocated and translated (R62, R183). -/
def createCommand (base : Word) (width height : Half) (fmt : Format) (purpose : Purpose) : Instr :=
  .surfSet ⟨base, dimensionsWord width height, attributesWord purpose fmt, 0⟩

/-- `DESTROY`: the block's share (R62, R185). -/
def destroyCommands : List Instr :=
  [.surfBase noOperands, .surfWidth noOperands, .surfHeight noOperands, .surfAttr noOperands, .surfClr noOperands]

/-- `RAWPTR` (R62). -/
def rawPointerCommand : Instr := .surfBase noOperands

/-- `FROMPACKED.A` and `TOPACKED.A`: "nothing: the value is the word" (R62, R81). -/
def fromPackedA (w : Word) : Word := w
/-- `FROMPACKED.B` and `TOPACKED.B` (R62, R81). -/
def fromPackedB (w : Half) : Half := w

/-- `GETPIXEL x, y`: `SURF.OFFS`, and if its flag is 1 then `SURF.LOAD` of its data (R62). -/
def getPixel (x y : Word) (s : State) : Result :=
  match exec (.surfOffs ⟨x, y, 0, 0⟩) s with
  | .next t =>
    match t.response with
    | some r => if r.flag then exec (.surfLoad ⟨r.data, 0, 0, 0⟩) t else .next t
    | none => .next t
  | .fault f => .fault f
  | .refused r => .refused r

end Sys2Proof.Machine
end

