-- ==== Sys2Proof/WellFormed.lean ====
section
/-! DEFINITION. Well-formed commands: those whose operand words pass the operand check of R57 for their own format. -/

namespace Sys2Proof

/-- Every bit of every operand word that the command's format does not assign to an operand is 0 (R57). -/
def Instr.wellFormed (i : Instr) : Bool :=
  Machine.inFormat (Machine.instrFormat i) (operandWords i)

end Sys2Proof
end

