-- ==== Sys2Proof/Safety.lean ====
section
/-! DEFINITION. What the claims are stated in: legal descriptors (R13), legal responses (R161), the accesses a descriptor
admits (R31, R34, R35), and the invariant of the machine. -/

namespace Sys2Proof.Machine

/-- `ALIGN` of a surface (R13). -/
def Surface.align (d : Surface) : Nat := alignOf Config.displayAlign d.purpose d.fmt

/-- The invariants of a descriptor (R13): `BASE mod ALIGN = 0` and `BASE + SIZE <= 2^32`. -/
abbrev Surface.Legal (d : Surface) : Prop := d.base.toNat % d.align = 0 ∧ d.base.toNat + d.size ≤ 2 ^ 32

/-- "`flag = 0` and `data = 0`" in every error response (R53, R161). -/
abbrev Response.Legal (r : Response) : Prop := r.status ≠ .ok → r.flag = false ∧ r.data = 0

/-- The address of a request on the memory port. -/
def MemAccess.addr : MemAccess → Word
  | .read a _ => a
  | .write a _ => a

/-- The number of bytes of a request on the memory port. -/
def MemAccess.bytes : MemAccess → Nat
  | .read _ n => n
  | .write _ px => pixelBytes px.fmt

/-- A surface admits a request: exactly `PSIZE` bytes (R35), naturally aligned (R34), inside the owned bytes (R31). -/
abbrev Surface.Admits (d : Surface) (acc : MemAccess) : Prop :=
  acc.bytes = d.psize ∧ acc.addr.toNat % d.psize = 0 ∧
    d.base.toNat ≤ acc.addr.toNat ∧ acc.addr.toNat + d.psize ≤ d.base.toNat + d.size

/-- The invariant of the machine: memory in canonical form (R30), a legal descriptor (R13), a legal response (R161), at most
one access for a command and none before it executes (R14, R35), each admitted by the surface (R31, R34, R35). -/
structure State.Inv (s : State) : Prop where
  mem_wf : s.mem.wf = true
  surface_legal : ∀ d, s.surface = some d → d.Legal
  response_legal : ∀ r, s.phase = .responding r → r.Legal
  bus_fresh : ∀ w, s.phase = .executing w → s.bus = []
  bus_one : s.bus.length ≤ 1
  bus_admitted : ∀ acc, acc ∈ s.bus → ∃ d, s.surface = some d ∧ d.Admits acc

/-- The value of pixel number `k` of a surface in memory (R33, R147). -/
def Surface.pixelAt (d : Surface) (m : Memory) (k : Nat) : Pixel :=
  readPixel m (d.pixelAddr k).toNat d.fmt

/-- The colour commands: families 0 to 4, PACK, CHAN, CVT, GAMMA and CONST (R52, R182). -/
def isColour (i : Instr) : Bool := decide ((opcode i).toNat < 0x50)

/-- Every SURF and PIX command except `SURF.SET` begins with the valid test (R130). -/
def needsSurface (i : Instr) : Bool := decide (0x50 < (opcode i).toNat)

/-- The index operand of the three commands that check one (R146, R151, R152). -/
def indexOperand : Instr → Option Word
  | .surfLoad p => some p.p0
  | .storeA p => some p.p0
  | .storeB p => some p.p0
  | _ => none

/-- The status that the fixed order of checks gives a command whose opcode is not reserved (R165, steps 2 to 7). -/
def expectedStatus (i : Instr) (s : State) : Status :=
  if i.wellFormed = false then .errOperand
  else if needsSurface i = true ∧ s.surface = none then .errNosurf
  else
    match i, indexOperand i, s.surface with
    | .surfSet p, _, none =>
      if (describedSurface p).base.toNat % (describedSurface p).align ≠ 0 then .errAlign
      else if (describedSurface p).base.toNat + (describedSurface p).size > 2 ^ 32 then .errRange
      else .ok
    | .surfSet _, _, some _ => .errBusy
    | _, some idx, some d => if d.count ≤ idx.toNat then .errIndex else .ok
    | _, _, _ => .ok

/-- The commands of the sixteen named colours (R105 to R120). -/
def colourCommandA : Colour → Operands → Instr
  | .black => .constABlack | .red => .constARed | .green => .constAGreen | .blue => .constABlue
  | .yellow => .constAYellow | .magenta => .constAMagenta | .cyan => .constACyan | .white => .constAWhite

/-- The Format B commands of the named colours (R113 to R120). -/
def colourCommandB : Colour → Operands → Instr
  | .black => .constBBlack | .red => .constBRed | .green => .constBGreen | .blue => .constBBlue
  | .yellow => .constBYellow | .magenta => .constBMagenta | .cyan => .constBCyan | .white => .constBWhite

/-- The items of R140's contract: pixel `k` after the items of a list, the later item winning, an item out of bounds
dropped. The bounds are those of `Strict` (R141), written over the integers. -/
def pixelAfterPoints (d : Surface) (k : Nat) (native : Word → Pixel) : List (Word × Word × Word) → Pixel → Pixel
  | [], px => px
  | (x, y, c) :: pts, px =>
    pixelAfterPoints d k native pts
      (if 0 ≤ x.toInt ∧ x.toInt < d.width.toNat ∧ 0 ≤ y.toInt ∧ y.toInt < d.height.toNat ∧
          x.toInt + y.toInt * d.width.toNat = k then native c else px)

/-- The rows of R58: which opcode bytes are reserved, and why. -/
abbrev reservedRow (e : DecodeError) (op : Nat) : Prop :=
  match e with
  | .packSelector => (0x01 ≤ op ∧ op ≤ 0x07) ∨ (0x09 ≤ op ∧ op ≤ 0x0F)
  | .chanSelector => (0x14 ≤ op ∧ op ≤ 0x17) ∨ (0x1C ≤ op ∧ op ≤ 0x1F)
  | .cvtSelector => (0x21 ≤ op ∧ op ≤ 0x27) ∨ (0x29 ≤ op ∧ op ≤ 0x2F)
  | .gammaSelector => (0x31 ≤ op ∧ op ≤ 0x37) ∨ (0x39 ≤ op ∧ op ≤ 0x3F)
  | .surfFunction => 0x5A ≤ op ∧ op ≤ 0x5F
  | .pixSelector => (0x62 ≤ op ∧ op ≤ 0x67) ∨ (0x6A ≤ op ∧ op ≤ 0x6F)
  | .family => 0x70 ≤ op ∧ op ≤ 0xFF

/-- The reserved opcode bytes: those of some row of R58. -/
abbrev reservedByte (op : Nat) : Prop :=
  reservedRow .packSelector op ∨ reservedRow .chanSelector op ∨ reservedRow .cvtSelector op ∨
    reservedRow .gammaSelector op ∨ reservedRow .surfFunction op ∨ reservedRow .pixSelector op ∨
    reservedRow .family op

/-- What a command that stores pixel `px` at address `a` leaves: the one write on the memory port, the stored bytes, every
other byte of memory as before, the descriptor and the waiting inputs as before, and `OK, 0, 0`. -/
abbrev StoresPixel (s t : State) (a : Word) (px : Pixel) : Prop :=
  t.phase = .responding ⟨.ok, false, 0⟩ ∧ t.surface = s.surface ∧ t.inputs = s.inputs ∧
  t.bus = s.bus ++ [.write a px] ∧ t.mem.wf = true ∧ readPixel t.mem a.toNat px.fmt = px ∧
  ∀ b, b < a.toNat ∨ a.toNat + pixelBytes px.fmt ≤ b → readByte t.mem b = readByte s.mem b

end Sys2Proof.Machine
end

