-- ==== Sys2Proof/Certificates/Slice0/Obligations.lean ====
section
/-! DEFINITION. The statements for the provers, from the numbered rules of spec/. -/

open Sys2Proof Sys2Proof.Machine

/-! ### Encoding -/

/-- R50, R55: decoding the encoding of any command gives the command, every bit of its four operand words included. -/
def Obligations.DecodeInvertsEncode : Prop := ∀ i : Instr, decode (encode i) = .ok i

/-- R50, R52, R55: every command word that decodes to a command is that command's encoding, so each command has one word. -/
def Obligations.EncodeInvertsDecode : Prop := ∀ (w : Command) (i : Instr), decode w = .ok i → encode i = w

/-- R58: the reserved bytes are exactly the listed ones, each for the reason of its row, 212 of them; a command with one
does nothing but respond `ERR_ILLEGAL`, whatever its operand words hold. -/
def Obligations.ReservedOpcodesOnlyRespondIllegal : Prop :=
  (∀ (w : Command) (e : DecodeError), decode w = .error e ↔ reservedRow e (w.toNat / 2 ^ 128)) ∧
  (∀ (w : Command) (s : State), reservedByte (w.toNat / 2 ^ 128) →
    executeCommand w s = .next { s with phase := .responding ⟨.errIllegal, false, 0⟩ }) ∧
  ((List.range 256).filter fun op => decide (reservedByte op)).length = 212

/-- R57: every command whose opcode is not reserved and that has a bit outside its operand format responds `ERR_OPERAND`,
whatever the descriptor and memory hold, and changes nothing else; a command without such a bit never responds it. -/
def Obligations.OperandCheckComesFirst : Prop :=
  ∀ (i : Instr) (s : State),
    if (operandWords i).p0 &&& ~~~(formatMask (instrFormat i)).p0 ≠ 0 ∨
      (operandWords i).p1 &&& ~~~(formatMask (instrFormat i)).p1 ≠ 0 ∨
      (operandWords i).p2 &&& ~~~(formatMask (instrFormat i)).p2 ≠ 0 ∨
      (operandWords i).p3 &&& ~~~(formatMask (instrFormat i)).p3 ≠ 0 then
      exec i s = .next { s with phase := .responding ⟨.errOperand, false, 0⟩ }
    else ∀ (t : State) (r : Response), exec i s = .next t → t.phase = .responding r → r.status ≠ .errOperand

/-- A few command words of 95_test_vectors.md decode to the commands they stand for: a sanity check of R50 and R55. -/
def Obligations.WrittenOutWordsDecode : Prop :=
  decode 0x00000000C8000000640000003200000082#136 = .ok (.packA ⟨200, 100, 50, 130⟩) ∧
  decode 0x190000CB0D000000000000000000000000#136 = .ok (.chanBG ⟨0xCB0D, 0, 0, 0⟩) ∧
  decode 0x20C8643282000000000000000000000000#136 = .ok (.cvtAB ⟨0xC8643282, 0, 0, 0⟩) ∧
  decode 0x380000001F000000100000000F00000001#136 = .ok (.gammaB ⟨31, 16, 15, 1⟩) ∧
  decode 0x4C00000000000000000000000000000000#136 = .ok (.constBYellow ⟨0, 0, 0, 0⟩) ∧
  decode 0x500010000000F001400000000300000000#136 = .ok (.surfSet ⟨0x00100000, 0x00F00140, 3, 0⟩) ∧
  decode 0x580000013F000000EF0000000000000000#136 = .ok (.surfAddr ⟨319, 239, 0, 0⟩) ∧
  decode 0x600000000500000002C864327F00000000#136 = .ok (.drawA ⟨5, 2, 0xC864327F, 0⟩)

/-! ### Colour commands -/

/-- R71, R72: with the channels in range, `PACK.A` and `PACK.B` answer the packed word and change nothing else; with any
channel out of range they respond `ERR_OPERAND`. -/
def Obligations.PackBuildsThePackedWord : Prop :=
  ∀ (s : State) (p : Operands),
    decode (commandWord 0x00 p) = .ok (.packA p) ∧
    (if p.p0.toNat < 256 ∧ p.p1.toNat < 256 ∧ p.p2.toNat < 256 ∧ p.p3.toNat < 256 then
      exec (.packA p) s = .next (s.present ⟨.ok, false, BitVec.ofNat 32
        (p.p0.toNat * 2 ^ 24 + p.p1.toNat * 2 ^ 16 + p.p2.toNat * 2 ^ 8 + p.p3.toNat)⟩)
    else exec (.packA p) s = .next (s.present ⟨.errOperand, false, 0⟩)) ∧
    decode (commandWord 0x08 p) = .ok (.packB p) ∧
    (if p.p0.toNat < 32 ∧ p.p1.toNat < 32 ∧ p.p2.toNat < 32 ∧ p.p3.toNat < 2 then
      exec (.packB p) s = .next (s.present ⟨.ok, false, BitVec.ofNat 32
        (p.p0.toNat * 2 ^ 11 + p.p1.toNat * 2 ^ 6 + p.p2.toNat * 2 + p.p3.toNat)⟩)
    else exec (.packB p) s = .next (s.present ⟨.errOperand, false, 0⟩))

/-- R73 to R76: `CHAN.A.*` of any 32-bit word, with the other operand words 0, answers the channel right-aligned and changes
nothing else; with another operand word not 0 it responds `ERR_OPERAND`. -/
def Obligations.ChanExtractsFormatAChannels : Prop :=
  ∀ (s : State) (p : Operands),
    (decode (commandWord 0x10 p) = .ok (.chanAR p) ∧ decode (commandWord 0x11 p) = .ok (.chanAG p) ∧
      decode (commandWord 0x12 p) = .ok (.chanAB p) ∧ decode (commandWord 0x13 p) = .ok (.chanAA p)) ∧
    (if p.p1 = 0 ∧ p.p2 = 0 ∧ p.p3 = 0 then
      exec (.chanAR p) s = .next (s.present ⟨.ok, false, BitVec.ofNat 32 (p.p0.toNat / 2 ^ 24)⟩) ∧
      exec (.chanAG p) s = .next (s.present ⟨.ok, false, BitVec.ofNat 32 (p.p0.toNat / 2 ^ 16 % 256)⟩) ∧
      exec (.chanAB p) s = .next (s.present ⟨.ok, false, BitVec.ofNat 32 (p.p0.toNat / 2 ^ 8 % 256)⟩) ∧
      exec (.chanAA p) s = .next (s.present ⟨.ok, false, BitVec.ofNat 32 (p.p0.toNat % 256)⟩)
    else
      exec (.chanAR p) s = .next (s.present ⟨.errOperand, false, 0⟩) ∧
      exec (.chanAG p) s = .next (s.present ⟨.errOperand, false, 0⟩) ∧
      exec (.chanAB p) s = .next (s.present ⟨.errOperand, false, 0⟩) ∧
      exec (.chanAA p) s = .next (s.present ⟨.errOperand, false, 0⟩))

/-- R77 to R80: `CHAN.B.*` of any 16-bit word, with the bits above it and the other operand words 0, answers the channel
right-aligned and changes nothing else; otherwise it responds `ERR_OPERAND`. -/
def Obligations.ChanExtractsFormatBChannels : Prop :=
  ∀ (s : State) (p : Operands),
    (decode (commandWord 0x18 p) = .ok (.chanBR p) ∧ decode (commandWord 0x19 p) = .ok (.chanBG p) ∧
      decode (commandWord 0x1A p) = .ok (.chanBB p) ∧ decode (commandWord 0x1B p) = .ok (.chanBA p)) ∧
    (if p.p0.toNat < 2 ^ 16 ∧ p.p1 = 0 ∧ p.p2 = 0 ∧ p.p3 = 0 then
      exec (.chanBR p) s = .next (s.present ⟨.ok, false, BitVec.ofNat 32 (p.p0.toNat / 2 ^ 11)⟩) ∧
      exec (.chanBG p) s = .next (s.present ⟨.ok, false, BitVec.ofNat 32 (p.p0.toNat / 2 ^ 6 % 32)⟩) ∧
      exec (.chanBB p) s = .next (s.present ⟨.ok, false, BitVec.ofNat 32 (p.p0.toNat / 2 % 32)⟩) ∧
      exec (.chanBA p) s = .next (s.present ⟨.ok, false, BitVec.ofNat 32 (p.p0.toNat % 2)⟩)
    else
      exec (.chanBR p) s = .next (s.present ⟨.errOperand, false, 0⟩) ∧
      exec (.chanBG p) s = .next (s.present ⟨.errOperand, false, 0⟩) ∧
      exec (.chanBB p) s = .next (s.present ⟨.errOperand, false, 0⟩) ∧
      exec (.chanBA p) s = .next (s.present ⟨.errOperand, false, 0⟩))

/-- R82: channel extraction is inverse to construction, and construction to extraction, in both formats. -/
def Obligations.ExtractionAndConstructionAreInverse : Prop :=
  (∀ r g b a : Byte,
    redA (packWordA r g b a) = r ∧ greenA (packWordA r g b a) = g ∧
    blueA (packWordA r g b a) = b ∧ alphaA (packWordA r g b a) = a) ∧
  (∀ (r g b : BitVec 5) (a : BitVec 1),
    redB (packWordB r g b a) = r ∧ greenB (packWordB r g b a) = g ∧
    blueB (packWordB r g b a) = b ∧ alphaB (packWordB r g b a) = a) ∧
  (∀ w : Word, packWordA (redA w) (greenA w) (blueA w) (alphaA w) = w) ∧
  (∀ w : Half, packWordB (redB w) (greenB w) (blueB w) (alphaB w) = w)

/-- R91, R93: the conversions answer the bit concatenations the rules give and change nothing else. `CVT.AB` gives
`w[31:27], w[23:19], w[15:11], w[7]`; `CVT.BA` gives each 5-bit channel `v` as `v*8 + v/4` and alpha as 255 or 0. Out of
format they respond `ERR_OPERAND`. -/
def Obligations.ConversionsAnswerTheBitPatterns : Prop :=
  ∀ (s : State) (p : Operands),
    decode (commandWord 0x20 p) = .ok (.cvtAB p) ∧
    (if p.p1 = 0 ∧ p.p2 = 0 ∧ p.p3 = 0 then
      exec (.cvtAB p) s = .next (s.present ⟨.ok, false, BitVec.ofNat 32
        (p.p0.toNat / 2 ^ 27 * 2 ^ 11 + p.p0.toNat / 2 ^ 19 % 32 * 2 ^ 6 + p.p0.toNat / 2 ^ 11 % 32 * 2 +
          p.p0.toNat / 2 ^ 7 % 2)⟩)
    else exec (.cvtAB p) s = .next (s.present ⟨.errOperand, false, 0⟩)) ∧
    decode (commandWord 0x28 p) = .ok (.cvtBA p) ∧
    (if p.p0.toNat < 2 ^ 16 ∧ p.p1 = 0 ∧ p.p2 = 0 ∧ p.p3 = 0 then
      exec (.cvtBA p) s = .next (s.present ⟨.ok, false, BitVec.ofNat 32
        ((p.p0.toNat / 2 ^ 11 * 8 + p.p0.toNat / 2 ^ 11 / 4) * 2 ^ 24 +
          (p.p0.toNat / 2 ^ 6 % 32 * 8 + p.p0.toNat / 2 ^ 6 % 32 / 4) * 2 ^ 16 +
          (p.p0.toNat / 2 % 32 * 8 + p.p0.toNat / 2 % 32 / 4) * 2 ^ 8 + 255 * (p.p0.toNat % 2))⟩)
    else exec (.cvtBA p) s = .next (s.present ⟨.errOperand, false, 0⟩))

/-- R95: (a) B to A to B loses nothing, (b) the error of A to B to A is at most 7 in each channel and 7 exactly at the eight
listed values, (c) the alpha class; and A to B to A is the identity exactly on the images of `CvtBA`, all different. -/
def Obligations.ConversionRoundTrips : Prop :=
  ((∀ v : BitVec 5, trunc5 (expand8 v) = v) ∧ (∀ a : BitVec 1, quant1 (expandA a) = a) ∧
    ∀ w : Half, cvtWordAB (cvtWordBA w) = w) ∧
  (∀ c : Byte, ((expand8 (trunc5 c)).toNat : Int) - c.toNat ≤ 7 ∧ (c.toNat : Int) - (expand8 (trunc5 c)).toNat ≤ 7 ∧
    ((c.toNat : Int) - (expand8 (trunc5 c)).toNat = 7 ↔ c.toNat ∈ [7, 15, 23, 31]) ∧
    (((expand8 (trunc5 c)).toNat : Int) - c.toNat = 7 ↔ c.toNat ∈ [224, 232, 240, 248])) ∧
  (∀ a : Byte, expandA (quant1 a) = if 128 ≤ a.toNat then 0xFF else 0x00) ∧
  (∀ w : Word, cvtWordBA (cvtWordAB w) = w ↔ ∃ h : Half, cvtWordBA h = w) ∧
  ∀ h h' : Half, cvtWordBA h = cvtWordBA h' → h = h'

/-- R95 seen by a host: the response of `CVT.BA` fed to `CVT.AB` is the word it began with, and no step of it touches the
descriptor or memory. -/
def Obligations.ConvertThereAndBackAnswersTheWord : Prop :=
  ∀ (s : State) (h : Half), ∃ v : Word,
    exec (.cvtBA ⟨h.setWidth 32, 0, 0, 0⟩) s = .next (s.present ⟨.ok, false, v⟩) ∧
    ∀ t : State, exec (.cvtAB ⟨v, 0, 0, 0⟩) t = .next (t.present ⟨.ok, false, h.setWidth 32⟩)

/-- R101, R102: the gamma encodes apply one remap to red, green and blue and leave alpha untouched, for whatever remap the
block has; nothing else changes. Out of format they respond `ERR_OPERAND`. -/
def Obligations.GammaRemapsColourAndKeepsAlpha : Prop :=
  ∀ (s : State) (p : Operands),
    decode (commandWord 0x30 p) = .ok (.gammaA p) ∧
    (if p.p0.toNat < 256 ∧ p.p1.toNat < 256 ∧ p.p2.toNat < 256 ∧ p.p3.toNat < 256 then
      exec (.gammaA p) s = .next (s.present ⟨.ok, false, BitVec.ofNat 32
        ((Config.gammaRemap8 (BitVec.ofNat 8 p.p0.toNat)).toNat * 2 ^ 24 +
          (Config.gammaRemap8 (BitVec.ofNat 8 p.p1.toNat)).toNat * 2 ^ 16 +
          (Config.gammaRemap8 (BitVec.ofNat 8 p.p2.toNat)).toNat * 2 ^ 8 + p.p3.toNat)⟩)
    else exec (.gammaA p) s = .next (s.present ⟨.errOperand, false, 0⟩)) ∧
    decode (commandWord 0x38 p) = .ok (.gammaB p) ∧
    (if p.p0.toNat < 32 ∧ p.p1.toNat < 32 ∧ p.p2.toNat < 32 ∧ p.p3.toNat < 2 then
      exec (.gammaB p) s = .next (s.present ⟨.ok, false, BitVec.ofNat 32
        ((Config.gammaRemap5 (BitVec.ofNat 5 p.p0.toNat)).toNat * 2 ^ 11 +
          (Config.gammaRemap5 (BitVec.ofNat 5 p.p1.toNat)).toNat * 2 ^ 6 +
          (Config.gammaRemap5 (BitVec.ofNat 5 p.p2.toNat)).toNat * 2 + p.p3.toNat)⟩)
    else exec (.gammaB p) s = .next (s.present ⟨.errOperand, false, 0⟩))

/-- R105 to R112: each Format A constant, given four zero operand words, answers its word and changes nothing else; given
any other it responds `ERR_OPERAND`. -/
def Obligations.NamedColoursOfFormatA : Prop :=
  ∀ (s : State) (p : Operands), ∀ row ∈
      [(0x40#8, Instr.constABlack p, 0x000000FF#32), (0x41#8, .constARed p, 0xFF0000FF#32),
        (0x42#8, .constAGreen p, 0x00FF00FF#32), (0x43#8, .constABlue p, 0x0000FFFF#32),
        (0x44#8, .constAYellow p, 0xFFFF00FF#32), (0x45#8, .constAMagenta p, 0xFF00FFFF#32),
        (0x46#8, .constACyan p, 0x00FFFFFF#32), (0x47#8, .constAWhite p, 0xFFFFFFFF#32)],
    decode (commandWord row.1 p) = .ok row.2.1 ∧
    if p = ⟨0, 0, 0, 0⟩ then exec row.2.1 s = .next (s.present ⟨.ok, false, row.2.2⟩)
    else exec row.2.1 s = .next (s.present ⟨.errOperand, false, 0⟩)

/-- R113 to R120: each Format B constant, given four zero operand words, answers its word and changes nothing else; given
any other it responds `ERR_OPERAND`. -/
def Obligations.NamedColoursOfFormatB : Prop :=
  ∀ (s : State) (p : Operands), ∀ row ∈
      [(0x48#8, Instr.constBBlack p, 0x00000001#32), (0x49#8, .constBRed p, 0x0000F801#32),
        (0x4A#8, .constBGreen p, 0x000007C1#32), (0x4B#8, .constBBlue p, 0x0000003F#32),
        (0x4C#8, .constBYellow p, 0x0000FFC1#32), (0x4D#8, .constBMagenta p, 0x0000F83F#32),
        (0x4E#8, .constBCyan p, 0x000007FF#32), (0x4F#8, .constBWhite p, 0x0000FFFF#32)],
    decode (commandWord row.1 p) = .ok row.2.1 ∧
    if p = ⟨0, 0, 0, 0⟩ then exec row.2.1 s = .next (s.present ⟨.ok, false, row.2.2⟩)
    else exec row.2.1 s = .next (s.present ⟨.errOperand, false, 0⟩)

/-- R104: for every named colour, `CVT.AB` of the Format A constant answers the Format B constant, and `CVT.BA` of the
Format B constant answers the Format A constant. -/
def Obligations.NamedColoursAgreeAcrossFormats : Prop :=
  ∀ (c : Colour) (s : State), ∃ v w : Word,
    exec (colourCommandA c noOperands) s = .next (s.present ⟨.ok, false, v⟩) ∧
    exec (colourCommandB c noOperands) s = .next (s.present ⟨.ok, false, w⟩) ∧
    exec (.cvtAB ⟨v, 0, 0, 0⟩) s = .next (s.present ⟨.ok, false, w⟩) ∧
    exec (.cvtBA ⟨w, 0, 0, 0⟩) s = .next (s.present ⟨.ok, false, v⟩)

/-- R19, R182: every colour command is a pure function of its operands: one response, whatever the descriptor, memory, ports
and waiting inputs hold, and nothing else changes. -/
def Obligations.ColourCommandsArePure : Prop :=
  ∀ i : Instr, isColour i = true → ∃ r : Response, ∀ s : State, exec i s = .next (s.present r)

/-! ### The descriptor -/

/-- R131: `SURF.SET`, its checks in their order and its one write of all six fields. `P[2]` carries `fmt` in bit 0 and
`purpose` in bit 1, `P[1]` carries `width` below `height`. -/
def Obligations.SurfSetChecksThenWritesTheDescriptor : Prop :=
  ∀ (s : State) (p : Operands) (width height : Half) (fmt : Format) (purpose : Purpose),
    p.p1.toNat = height.toNat * 2 ^ 16 + width.toNat →
    p.p2.toNat % 4 =
      (match purpose with | .generalBuffer => 0 | .displayFramebuffer => 2) + (match fmt with | .a => 0 | .b => 1) →
    decode (commandWord 0x50 p) = .ok (.surfSet p) ∧
    let psize := match fmt with | .a => 4 | .b => 2
    let align := max (match purpose with | .generalBuffer => 16 | .displayFramebuffer => Config.displayAlign) psize
    if 4 ≤ p.p2.toNat ∨ p.p3 ≠ 0 then exec (.surfSet p) s = .next (s.present ⟨.errOperand, false, 0⟩)
    else if s.surface ≠ none then exec (.surfSet p) s = .next (s.present ⟨.errBusy, false, 0⟩)
    else if p.p0.toNat % align ≠ 0 then exec (.surfSet p) s = .next (s.present ⟨.errAlign, false, 0⟩)
    else if p.p0.toNat + width.toNat * height.toNat * psize > 2 ^ 32 then
      exec (.surfSet p) s = .next (s.present ⟨.errRange, false, 0⟩)
    else exec (.surfSet p) s =
      .next { s with surface := some ⟨p.p0, width, height, fmt, purpose⟩, phase := .responding ⟨.ok, false, 0⟩ }

/-- R132: `SURF.CLR` clears `S.VALID` and nothing else; without a surface it responds `ERR_NOSURF`, and with an operand word
not 0 `ERR_OPERAND`. -/
def Obligations.SurfClrForgetsTheSurface : Prop :=
  ∀ (s : State) (p : Operands),
    decode (commandWord 0x51 p) = .ok (.surfClr p) ∧
    if p ≠ ⟨0, 0, 0, 0⟩ then exec (.surfClr p) s = .next (s.present ⟨.errOperand, false, 0⟩)
    else if s.surface = none then exec (.surfClr p) s = .next (s.present ⟨.errNosurf, false, 0⟩)
    else exec (.surfClr p) s = .next { s with surface := none, phase := .responding ⟨.ok, false, 0⟩ }

/-- R133 to R137: the five accessors answer the field, the pixel count or the attributes of the surface and change nothing;
without a surface they respond `ERR_NOSURF`, and with an operand word not 0 `ERR_OPERAND`. -/
def Obligations.AccessorsAnswerTheDescriptor : Prop :=
  ∀ (s : State) (p : Operands), ∀ row ∈
      ([(0x52#8, Instr.surfBase p, fun d => d.base.toNat), (0x53#8, .surfWidth p, fun d => d.width.toNat),
        (0x54#8, .surfHeight p, fun d => d.height.toNat),
        (0x55#8, .surfCount p, fun d => d.width.toNat * d.height.toNat),
        (0x56#8, .surfAttr p, fun d =>
          (match d.purpose with | .generalBuffer => 0 | .displayFramebuffer => 2) +
            (match d.fmt with | .a => 0 | .b => 1))] : List (BitVec 8 × Instr × (Surface → Nat))),
    decode (commandWord row.1 p) = .ok row.2.1 ∧
    if p ≠ ⟨0, 0, 0, 0⟩ then exec row.2.1 s = .next (s.present ⟨.errOperand, false, 0⟩)
    else
      (s.surface = none → exec row.2.1 s = .next (s.present ⟨.errNosurf, false, 0⟩)) ∧
      (∀ d, s.surface = some d →
        row.2.2 d < 2 ^ 32 ∧ exec row.2.1 s = .next (s.present ⟨.ok, false, BitVec.ofNat 32 (row.2.2 d)⟩))

/-- R20: while the block holds a surface no command changes its descriptor: it stays, or `SURF.CLR` removes it; `SURF.SET`
is refused with `ERR_BUSY`; and `SURF.CLR` followed by `SURF.SET` is the way to another descriptor. -/
def Obligations.DescriptorIsFixedForItsLifetime : Prop :=
  (∀ (i : Instr) (s t : State) (d : Surface), s.surface = some d → exec i s = .next t →
    t.surface = some d ∨ (t.surface = none ∧ ∃ p, i = .surfClr p)) ∧
  (∀ (p : Operands) (s : State) (d : Surface), s.surface = some d → inFormat .set p = true →
    exec (.surfSet p) s = .next (s.present ⟨.errBusy, false, 0⟩)) ∧
  (∀ (p : Operands) (s : State) (d : Surface), s.surface = some d → inFormat .set p = true → (describedSurface p).Legal →
    ∃ t u : State, exec (.surfClr noOperands) s = .next t ∧ exec (.surfSet p) t = .next u ∧
      u.surface = some (describedSurface p) ∧ u.mem = s.mem)

/-- R138: a `SURF.SET` that completes takes the block from no surface to one, a `SURF.CLR` that completes takes it from one
to none, and no other command changes whether it holds one: so the two alternate. -/
def Obligations.SetAndClearAlternate : Prop :=
  ∀ (i : Instr) (s t : State) (r : Response), exec i s = .next t → t.phase = .responding r →
    ((∃ p, i = .surfSet p) → (r.status = .ok ↔ s.surface = none ∧ t.surface ≠ none)) ∧
    ((∃ p, i = .surfClr p) → (r.status = .ok ↔ s.surface ≠ none ∧ t.surface = none)) ∧
    ((∀ p, i ≠ .surfSet p) → (∀ p, i ≠ .surfClr p) → t.surface = s.surface)

/-- R13: every command preserves the descriptor's invariants, and a legal descriptor's derived quantities have the bounds
the rule gives. -/
def Obligations.CommandsPreserveLegalDescriptors : Prop :=
  (∀ (i : Instr) (s t : State), (∀ d, s.surface = some d → d.base.toNat % d.align = 0 ∧
      d.base.toNat + d.width.toNat * d.height.toNat * pixelBytes d.fmt ≤ 2 ^ 32) → exec i s = .next t →
    ∀ d, t.surface = some d → d.base.toNat % d.align = 0 ∧
      d.base.toNat + d.width.toNat * d.height.toNat * pixelBytes d.fmt ≤ 2 ^ 32) ∧
  (∀ d : Surface, d.count ≤ 4294836225 ∧ d.size ≤ 17179344900 ∧
    d.align = (match d.purpose with | .generalBuffer => 16 | .displayFramebuffer => Config.displayAlign))

/-! ### Address calculation -/

/-- R141: the bounds test under both policies, and what follows from it: negative coordinates and coordinates above 65535
miss, the unsigned reading gives the same answer, an empty surface has no hit under `Strict`, `(W+1, 0)` misses, and
`(W, H)` is a hit under `Inclusive` and a miss under `Strict`. -/
def Obligations.BoundsTestOfAPoint : Prop :=
  (∀ (d : Surface) (x y : Int),
    (inBounds .strict d x y = true ↔ 0 ≤ x ∧ x < d.width.toNat ∧ 0 ≤ y ∧ y < d.height.toNat) ∧
    (inBounds .inclusive d x y = true ↔ 0 ≤ x ∧ x ≤ d.width.toNat ∧ 0 ≤ y ∧ y ≤ d.height.toNat)) ∧
  (∀ (policy : BoundsPolicy) (d : Surface) (x y : Int), inBounds policy d x y = true →
    0 ≤ x ∧ x ≤ 65535 ∧ 0 ≤ y ∧ y ≤ 65535) ∧
  (∀ (policy : BoundsPolicy) (d : Surface) (a b : Word),
    inBounds policy d (coord a) (coord b) = inBounds policy d (a.toNat : Int) (b.toNat : Int)) ∧
  (∀ (d : Surface) (x y : Int), d.width.toNat = 0 ∨ d.height.toNat = 0 → inBounds .strict d x y = false) ∧
  (∀ (policy : BoundsPolicy) (d : Surface), inBounds policy d (d.width.toNat + 1) 0 = false) ∧
  (∀ d : Surface, inBounds .inclusive d d.width.toNat d.height.toNat = true ∧
    inBounds .strict d d.width.toNat d.height.toNat = false) ∧
  Config.boundsPolicy = .strict

/-- R142: offset and address of a hit, the bounds of the offset under both policies, the row-major laws, and under `Strict`
the bijection of the hits onto `0..COUNT-1` and addresses that neither wrap nor leave the owned bytes. -/
def Obligations.OffsetAndAddressOfAHit : Prop :=
  (∀ (policy : BoundsPolicy) (d : Surface) (x y : Int), inBounds policy d x y = true →
    (d.offset x y : Int) = x + y * d.width.toNat ∧ d.offset x y ≤ 4294901760 ∧
    (d.pointAddr x y).toNat = (d.base.toNat + d.offset x y * pixelBytes d.fmt) % 2 ^ 32 ∧
    d.offset (x + 1) y = d.offset x y + 1 ∧ d.offset x (y + 1) = d.offset x y + d.width.toNat) ∧
  (∀ d : Surface, d.offset 0 0 = 0) ∧
  (∀ (d : Surface) (k : Nat), k < d.count →
    ∃ x y : Int, (inBounds .strict d x y = true ∧ d.offset x y = k) ∧
      ∀ x' y' : Int, inBounds .strict d x' y' = true → d.offset x' y' = k → x' = x ∧ y' = y) ∧
  (∀ (d : Surface) (x y : Int), d.Legal → inBounds .strict d x y = true →
    d.offset x y < d.count ∧
    (d.pointAddr x y).toNat = d.base.toNat + d.offset x y * pixelBytes d.fmt ∧
    (d.pointAddr x y).toNat + pixelBytes d.fmt ≤ d.base.toNat + d.size)

/-- R147: the address of a linear index does not wrap and lies in the owned bytes, and the index that is the offset of a hit
has the hit's address. -/
def Obligations.IndexAddressesAgreeWithPointAddresses : Prop :=
  (∀ (d : Surface) (k : Nat), d.Legal → k < d.count →
    (d.pixelAddr k).toNat = d.base.toNat + k * pixelBytes d.fmt ∧ (d.pixelAddr k).toNat < 2 ^ 32 ∧
    d.base.toNat ≤ (d.pixelAddr k).toNat ∧ (d.pixelAddr k).toNat + pixelBytes d.fmt ≤ d.base.toNat + d.size) ∧
  (∀ (d : Surface) (x y : Int), inBounds .strict d x y = true → d.pixelAddr (d.offset x y) = d.pointAddr x y)

/-- R150: what `Inclusive` admits beyond `Strict`, and where it lands. -/
def Obligations.InclusiveExtraHits : Prop :=
  (∀ (d : Surface) (x y : Int),
    (inBounds .inclusive d x y = true ∧ inBounds .strict d x y = false) ↔
      (0 ≤ x ∧ x ≤ d.width.toNat ∧ 0 ≤ y ∧ y ≤ d.height.toNat ∧ (x = d.width.toNat ∨ y = d.height.toNat))) ∧
  (∀ (d : Surface) (y : Int), 1 ≤ d.width.toNat → 0 ≤ y → y + 2 ≤ d.height.toNat →
    d.offset d.width.toNat y = d.offset 0 (y + 1) ∧ inBounds .strict d 0 (y + 1) = true) ∧
  (∀ d : Surface, 1 ≤ d.height.toNat → d.offset d.width.toNat (d.height.toNat - 1 : Int) = d.count) ∧
  (∀ (d : Surface) (x : Int), 0 ≤ x → x ≤ d.width.toNat →
    (d.offset x d.height.toNat : Int) = d.count + x) ∧
  (∀ (d : Surface) (x y : Int), d.width.toNat = 0 → inBounds .inclusive d x y = true →
    x = 0 ∧ d.offset x y = 0 ∧ d.count = 0)

/-- R143: `SURF.OFFS` answers flag 1 and the linear offset of a hit, `OK, 0, 0` for a miss, and changes nothing; without a
surface it responds `ERR_NOSURF`, with `P[2]` or `P[3]` not 0 `ERR_OPERAND`. -/
def Obligations.SurfOffsAnswersTheOffset : Prop :=
  ∀ (s : State) (p : Operands),
    decode (commandWord 0x57 p) = .ok (.surfOffs p) ∧
    if p.p2 ≠ 0 ∨ p.p3 ≠ 0 then exec (.surfOffs p) s = .next (s.present ⟨.errOperand, false, 0⟩)
    else
      (s.surface = none → exec (.surfOffs p) s = .next (s.present ⟨.errNosurf, false, 0⟩)) ∧
      (∀ d, s.surface = some d →
        if 0 ≤ p.p0.toInt ∧ p.p0.toInt < d.width.toNat ∧ 0 ≤ p.p1.toInt ∧ p.p1.toInt < d.height.toNat then
          exec (.surfOffs p) s =
            .next (s.present ⟨.ok, true, BitVec.ofNat 32 (p.p0.toNat + p.p1.toNat * d.width.toNat)⟩)
        else exec (.surfOffs p) s = .next (s.present ⟨.ok, false, 0⟩))

/-- R144: `SURF.ADDR` answers flag 1 and the byte address of a hit, `OK, 0, 0` for a miss, and changes nothing; without a
surface it responds `ERR_NOSURF`, with `P[2]` or `P[3]` not 0 `ERR_OPERAND`. -/
def Obligations.SurfAddrAnswersTheAddress : Prop :=
  ∀ (s : State) (p : Operands),
    decode (commandWord 0x58 p) = .ok (.surfAddr p) ∧
    if p.p2 ≠ 0 ∨ p.p3 ≠ 0 then exec (.surfAddr p) s = .next (s.present ⟨.errOperand, false, 0⟩)
    else
      (s.surface = none → exec (.surfAddr p) s = .next (s.present ⟨.errNosurf, false, 0⟩)) ∧
      (∀ d, s.surface = some d →
        if 0 ≤ p.p0.toInt ∧ p.p0.toInt < d.width.toNat ∧ 0 ≤ p.p1.toInt ∧ p.p1.toInt < d.height.toNat then
          exec (.surfAddr p) s = .next (s.present ⟨.ok, true, BitVec.ofNat 32 (d.base.toNat +
            (p.p0.toNat + p.p1.toNat * d.width.toNat) * (match d.fmt with | .a => 4 | .b => 2))⟩)
        else exec (.surfAddr p) s = .next (s.present ⟨.ok, false, 0⟩))

/-! ### The commands that access memory -/

/-- R33: pixels are written and read big-endian, and a byte no pixel write covers reads as before. Four bytes at the address
of a Format A pixel are two Format B pixels one after the other. -/
def Obligations.PixelsAreBigEndian : Prop :=
  (∀ (m : Memory) (a : Nat) (v : Word), m.wf = true → a + 4 ≤ 2 ^ 32 →
    (writePixel m a (.a v)).wf = true ∧
    (readByte (writePixel m a (.a v)) a).toNat = v.toNat / 2 ^ 24 ∧
    (readByte (writePixel m a (.a v)) (a + 1)).toNat = v.toNat / 2 ^ 16 % 256 ∧
    (readByte (writePixel m a (.a v)) (a + 2)).toNat = v.toNat / 2 ^ 8 % 256 ∧
    (readByte (writePixel m a (.a v)) (a + 3)).toNat = v.toNat % 256 ∧
    ∀ b, b < a ∨ a + 4 ≤ b → readByte (writePixel m a (.a v)) b = readByte m b) ∧
  (∀ (m : Memory) (a : Nat) (v : Half), m.wf = true → a + 2 ≤ 2 ^ 32 →
    (writePixel m a (.b v)).wf = true ∧
    (readByte (writePixel m a (.b v)) a).toNat = v.toNat / 2 ^ 8 ∧
    (readByte (writePixel m a (.b v)) (a + 1)).toNat = v.toNat % 256 ∧
    ∀ b, b < a ∨ a + 2 ≤ b → readByte (writePixel m a (.b v)) b = readByte m b) ∧
  (∀ (m : Memory) (a : Nat), ∃ (w : Word) (h l : Half),
    readPixel m a .a = .a w ∧ readPixel m a .b = .b h ∧ readPixel m (a + 2) .b = .b l ∧
    w.toNat = (readByte m a).toNat * 2 ^ 24 + (readByte m (a + 1)).toNat * 2 ^ 16 +
      (readByte m (a + 2)).toNat * 2 ^ 8 + (readByte m (a + 3)).toNat ∧
    h.toNat = (readByte m a).toNat * 2 ^ 8 + (readByte m (a + 1)).toNat ∧
    w.toNat = h.toNat * 2 ^ 16 + l.toNat)

/-- R146: on a legal surface `SURF.LOAD` answers the pixel at the index in the native format, by one read of `PSIZE` bytes,
and changes neither descriptor nor memory; its errors in their order. -/
def Obligations.SurfLoadAnswersThePixel : Prop :=
  ∀ (s : State) (p : Operands),
    decode (commandWord 0x59 p) = .ok (.surfLoad p) ∧
    if p.p1 ≠ 0 ∨ p.p2 ≠ 0 ∨ p.p3 ≠ 0 then exec (.surfLoad p) s = .next (s.present ⟨.errOperand, false, 0⟩)
    else
      (s.surface = none → exec (.surfLoad p) s = .next (s.present ⟨.errNosurf, false, 0⟩)) ∧
      (∀ d, s.surface = some d → d.Legal →
        let a := d.base.toNat + p.p0.toNat * pixelBytes d.fmt
        if d.width.toNat * d.height.toNat ≤ p.p0.toNat then
          exec (.surfLoad p) s = .next (s.present ⟨.errIndex, false, 0⟩)
        else match d.fmt with
          | .a => exec (.surfLoad p) s = .next { s with
              bus := s.bus ++ [.read (BitVec.ofNat 32 a) 4]
              phase := .responding ⟨.ok, false, BitVec.ofNat 32 ((readByte s.mem a).toNat * 2 ^ 24 +
                (readByte s.mem (a + 1)).toNat * 2 ^ 16 + (readByte s.mem (a + 2)).toNat * 2 ^ 8 +
                (readByte s.mem (a + 3)).toNat)⟩ }
          | .b => exec (.surfLoad p) s = .next { s with
              bus := s.bus ++ [.read (BitVec.ofNat 32 a) 2]
              phase := .responding ⟨.ok, false, BitVec.ofNat 32 ((readByte s.mem a).toNat * 2 ^ 8 +
                (readByte s.mem (a + 1)).toNat)⟩ })

/-- R148, R149: on a legal surface `DRAW.A` and `DRAW.B` store the colour, in the surface's native format, at the address of
a hit and nowhere else; a miss is dropped with the same response; their errors in their order. -/
def Obligations.DrawStoresHitsAndDropsMisses : Prop :=
  ∀ (s : State) (p : Operands),
    decode (commandWord 0x60 p) = .ok (.drawA p) ∧ decode (commandWord 0x68 p) = .ok (.drawB p) ∧
    (p.p3 ≠ 0 → exec (.drawA p) s = .next (s.present ⟨.errOperand, false, 0⟩)) ∧
    (2 ^ 16 ≤ p.p2.toNat ∨ p.p3 ≠ 0 → exec (.drawB p) s = .next (s.present ⟨.errOperand, false, 0⟩)) ∧
    (p.p3 = 0 → s.surface = none →
      exec (.drawA p) s = .next (s.present ⟨.errNosurf, false, 0⟩) ∧
      (p.p2.toNat < 2 ^ 16 → exec (.drawB p) s = .next (s.present ⟨.errNosurf, false, 0⟩))) ∧
    (∀ d, p.p3 = 0 → s.surface = some d → d.Legal → s.mem.wf = true →
      if 0 ≤ p.p0.toInt ∧ p.p0.toInt < d.width.toNat ∧ 0 ≤ p.p1.toInt ∧ p.p1.toInt < d.height.toNat then
        (d.pointAddr (coord p.p0) (coord p.p1)).toNat =
          d.base.toNat + (p.p0.toNat + p.p1.toNat * d.width.toNat) * pixelBytes d.fmt ∧
        (∃ t, exec (.drawA p) s = .next t ∧
          StoresPixel s t (d.pointAddr (coord p.p0) (coord p.p1)) (nativeA p.p2 d.fmt)) ∧
        (p.p2.toNat < 2 ^ 16 → ∃ t, exec (.drawB p) s = .next t ∧
          StoresPixel s t (d.pointAddr (coord p.p0) (coord p.p1)) (nativeB (BitVec.ofNat 16 p.p2.toNat) d.fmt))
      else
        exec (.drawA p) s = .next (s.present ⟨.ok, false, 0⟩) ∧
        (p.p2.toNat < 2 ^ 16 → exec (.drawB p) s = .next (s.present ⟨.ok, false, 0⟩)))

/-- R151, R152: on a legal surface `STORE.A` and `STORE.B` store the colour, in the surface's native format, at the address
of the index and nowhere else; an index not below `COUNT` is `ERR_INDEX`; their errors in their order. -/
def Obligations.StoreWritesTheIndexedPixel : Prop :=
  ∀ (s : State) (p : Operands),
    decode (commandWord 0x61 p) = .ok (.storeA p) ∧ decode (commandWord 0x69 p) = .ok (.storeB p) ∧
    (p.p2 ≠ 0 ∨ p.p3 ≠ 0 → exec (.storeA p) s = .next (s.present ⟨.errOperand, false, 0⟩)) ∧
    (2 ^ 16 ≤ p.p1.toNat ∨ p.p2 ≠ 0 ∨ p.p3 ≠ 0 → exec (.storeB p) s = .next (s.present ⟨.errOperand, false, 0⟩)) ∧
    (p.p2 = 0 → p.p3 = 0 → s.surface = none →
      exec (.storeA p) s = .next (s.present ⟨.errNosurf, false, 0⟩) ∧
      (p.p1.toNat < 2 ^ 16 → exec (.storeB p) s = .next (s.present ⟨.errNosurf, false, 0⟩))) ∧
    (∀ d, p.p2 = 0 → p.p3 = 0 → s.surface = some d → d.Legal → s.mem.wf = true →
      if d.width.toNat * d.height.toNat ≤ p.p0.toNat then
        exec (.storeA p) s = .next (s.present ⟨.errIndex, false, 0⟩) ∧
        (p.p1.toNat < 2 ^ 16 → exec (.storeB p) s = .next (s.present ⟨.errIndex, false, 0⟩))
      else
        (d.pixelAddr p.p0.toNat).toNat = d.base.toNat + p.p0.toNat * pixelBytes d.fmt ∧
        (∃ t, exec (.storeA p) s = .next t ∧ StoresPixel s t (d.pixelAddr p.p0.toNat) (nativeA p.p1 d.fmt)) ∧
        (p.p1.toNat < 2 ^ 16 → ∃ t, exec (.storeB p) s = .next t ∧
          StoresPixel s t (d.pixelAddr p.p0.toNat) (nativeB (BitVec.ofNat 16 p.p1.toNat) d.fmt)))

/-- R145, R38 (1): on a legal surface a `SURF.LOAD` after a `STORE` to the same index answers the stored colour: the
operand's own bits where the formats are equal, and otherwise what `CVT.AB` or `CVT.BA` answers for the colour. -/
def Obligations.LoadAnswersTheStoredColourInNativeFormat : Prop :=
  ∀ (s : State) (d : Surface) (idx c : Word) (h : Half),
    s.surface = some d → d.Legal → s.mem.wf = true → idx.toNat < d.count →
    ∃ (t t' u u' : State) (ab ba : Word),
      exec (.storeA ⟨idx, c, 0, 0⟩) s = .next t ∧ exec (.surfLoad ⟨idx, 0, 0, 0⟩) t = .next u ∧
      exec (.storeB ⟨idx, h.setWidth 32, 0, 0⟩) s = .next t' ∧ exec (.surfLoad ⟨idx, 0, 0, 0⟩) t' = .next u' ∧
      exec (.cvtAB ⟨c, 0, 0, 0⟩) s = .next (s.present ⟨.ok, false, ab⟩) ∧
      exec (.cvtBA ⟨h.setWidth 32, 0, 0, 0⟩) s = .next (s.present ⟨.ok, false, ba⟩) ∧
      (d.fmt = .a → u.phase = .responding ⟨.ok, false, c⟩ ∧ u'.phase = .responding ⟨.ok, false, ba⟩) ∧
      (d.fmt = .b → u.phase = .responding ⟨.ok, false, ab⟩ ∧ u'.phase = .responding ⟨.ok, false, h.setWidth 32⟩)

/-- R62 (GETPIXEL), R140: drawing a point that is a hit and then reading it by position answers the drawn colour, and every
other pixel reads as before. -/
def Obligations.GetPixelAnswersTheDrawnColour : Prop :=
  ∀ (s t : State) (d : Surface) (x y c : Word),
    s.surface = some d → d.Legal → s.mem.wf = true → inBounds .strict d x.toInt y.toInt = true →
    exec (.drawA ⟨x, y, c, 0⟩) s = .next t →
    (∃ u, getPixel x y t = .next u ∧ u.phase = .responding ⟨.ok, false, (nativeA c d.fmt).data⟩) ∧
    ∀ k, k < d.count → k ≠ d.offset x.toInt y.toInt → d.pixelAt t.mem k = d.pixelAt s.mem k

/-- R140, R62 (DRAWPTS): the contract of `drawPoints`. Over a list of items of either format it never fails, each pixel ends
as the last item that hits it left it, in the native format, items out of bounds are dropped, and no byte outside the
surface changes. -/
def Obligations.DrawPointsContract : Prop :=
  ∀ (s : State) (d : Surface), s.surface = some d → d.Legal → s.mem.wf = true →
    (∀ pts : List (Word × Word × Word),
      ∃ t, execAll (drawPointsA pts) s = .next t ∧ t.surface = some d ∧ t.mem.wf = true ∧
        (∀ k, k < d.count →
          d.pixelAt t.mem k = pixelAfterPoints d k (fun c => nativeA c d.fmt) pts (d.pixelAt s.mem k)) ∧
        ∀ a, d.owns a = false → readByte t.mem a = readByte s.mem a) ∧
    (∀ pts : List (Word × Word × Half),
      ∃ t, execAll (drawPointsB pts) s = .next t ∧ t.surface = some d ∧ t.mem.wf = true ∧
        (∀ k, k < d.count →
          d.pixelAt t.mem k = pixelAfterPoints d k (fun c => nativeB (c.setWidth 16) d.fmt)
            (pts.map fun pt => (pt.1, pt.2.1, pt.2.2.setWidth 32)) (d.pixelAt s.mem k)) ∧
        ∀ a, d.owns a = false → readByte t.mem a = readByte s.mem a)

/-- R14, R35, R31: a command makes at most one access on the memory port; it is of exactly `PSIZE` bytes, aligned, and on a
legal surface inside the owned bytes. Only `SURF.LOAD` reads; only `DRAW` and `STORE` write. -/
def Obligations.AtMostOneAdmittedAccess : Prop :=
  ∀ (i : Instr) (s t : State), (∀ d, s.surface = some d → d.Legal) → exec i s = .next t →
    t.bus = s.bus ∨ ∃ (d : Surface) (acc : MemAccess), s.surface = some d ∧ t.bus = s.bus ++ [acc] ∧
      acc.bytes = d.psize ∧ acc.addr.toNat % d.psize = 0 ∧ d.base.toNat ≤ acc.addr.toNat ∧
      acc.addr.toNat + d.psize ≤ d.base.toNat + d.size ∧
      ((∃ p, i = .surfLoad p) ∧ (∃ a n, acc = .read a n) ∨
        (∃ p, i = .drawA p ∨ i = .drawB p ∨ i = .storeA p ∨ i = .storeB p) ∧ ∃ a px, acc = .write a px)

/-- The model's choice for states that no run reaches (log entry 9; R34: "the spec gives it no behaviour"): a pixel access at
an address that is no multiple of the pixel's size stops with a fault, for each of the five commands that access memory. -/
def Obligations.MisalignedAccessFaults : Prop :=
  ∀ (s : State) (d : Surface) (idx x y c : Word) (h : Half), s.surface = some d → d.base.toNat % d.psize ≠ 0 →
    (idx.toNat < d.count →
      exec (.surfLoad ⟨idx, 0, 0, 0⟩) s = .fault .misalignedAccess ∧
      exec (.storeA ⟨idx, c, 0, 0⟩) s = .fault .misalignedAccess ∧
      exec (.storeB ⟨idx, h.setWidth 32, 0, 0⟩) s = .fault .misalignedAccess) ∧
    (inBounds .strict d x.toInt y.toInt = true →
      exec (.drawA ⟨x, y, c, 0⟩) s = .fault .misalignedAccess ∧
      exec (.drawB ⟨x, y, h.setWidth 32, 0⟩) s = .fault .misalignedAccess)

/-! ### Errors and whole-machine rules -/

/-- R161: an error response has flag 0 and data 0; the command writes no field of the descriptor, makes no memory access and
leaves nothing behind; the next command executes as if the failed one had never been issued. -/
def Obligations.ErrorsLeaveNothingBehind : Prop :=
  ∀ (w : Command) (s t : State) (r : Response), executeCommand w s = .next t → t.phase = .responding r → r.status ≠ .ok →
    r.flag = false ∧ r.data = 0 ∧ t = { s with phase := t.phase } ∧
    ∀ w' : Command, executeCommand w' t = executeCommand w' s

/-- R165: the status of every command is the one the fixed order of checks gives, every command is answered, and no check
that fails touches anything but the response; legal descriptors are those of R13, which every command preserves. -/
def Obligations.ChecksAreMadeInOneOrder : Prop :=
  ∀ (w : Command) (s : State), (∀ d, s.surface = some d → d.Legal) →
    ∃ (t : State) (r : Response), executeCommand w s = .next t ∧ t.phase = .responding r ∧
      (r.status ≠ .ok → t = s.present r) ∧
      match decode w with
      | .error _ => r.status = .errIllegal
      | .ok i => r.status = expectedStatus i s

/-- R160, R162: a colour command can raise `ERR_OPERAND` and nothing else; drawing and locating a point raise no error for
where the point lies. -/
def Obligations.OnlyTheListedErrors : Prop :=
  (∀ (i : Instr) (s t : State) (r : Response), exec i s = .next t → t.phase = .responding r →
    (isColour i = true → r.status = .ok ∨ r.status = .errOperand) ∧
    (r.status = .errNosurf → needsSurface i = true) ∧
    (r.status = .errBusy ∨ r.status = .errAlign ∨ r.status = .errRange → ∃ p, i = .surfSet p) ∧
    (r.status = .errIndex → ∃ p, i = .surfLoad p ∨ i = .storeA p ∨ i = .storeB p) ∧
    r.status ≠ .errIllegal) ∧
  (∀ (i : Instr) (s : State) (d : Surface), s.surface = some d → d.Legal → i.wellFormed = true →
    (∃ p, i = .drawA p ∨ i = .drawB p ∨ i = .surfOffs p ∨ i = .surfAddr p) →
    ∃ (t : State) (r : Response), exec i s = .next t ∧ t.phase = .responding r ∧ r.status = .ok)

/-- R19: which family touches what. Colour commands and the queries change nothing but the response; `SURF.SET` and
`SURF.CLR` touch no memory; `SURF.LOAD`, `DRAW` and `STORE` leave the descriptor; and no command but `SURF.LOAD` responds
differently for another memory. -/
def Obligations.FamiliesTouchOnlyTheirState : Prop :=
  ∀ (i : Instr) (s t : State), exec i s = .next t →
    t.inputs = s.inputs ∧
    ((opcode i).toNat < 0x50 ∨ 0x52 ≤ (opcode i).toNat ∧ (opcode i).toNat ≤ 0x58 →
      ∃ r, t = s.present r) ∧
    ((opcode i).toNat = 0x50 ∨ (opcode i).toNat = 0x51 → t.mem = s.mem ∧ t.bus = s.bus) ∧
    ((opcode i).toNat = 0x59 → t.surface = s.surface ∧ t.mem = s.mem) ∧
    (0x60 ≤ (opcode i).toNat → t.surface = s.surface) ∧
    ((opcode i).toNat ≠ 0x59 → ∀ m : Memory, ∃ t' : State, exec i { s with mem := m } = .next t' ∧
      t'.phase = t.phase ∧ t'.surface = t.surface ∧ t'.bus = t.bus)

/-! ### The step, the ports, reset, and the other agents -/

/-- R51: when a command is in flight and `rst` is low, the step is the execution of the command its word decodes to, at the
state whose waiting input has been taken; the other pins do not matter. That execution takes one step of the clock, and that
the environment's moves wait in a list, are the model's choices (log entries 2, 3 and 17). -/
def Obligations.StepRunsTheDecodedCommand : Prop :=
  ∀ (s : State) (w : Command) (i : Instr), s.phase = .executing w → decode w = .ok i →
    (s.inputs = [] ∨ ∃ pins rest, s.inputs = .cycle pins :: rest ∧ pins.rst = false) →
    step s = exec i { s with inputs := s.inputs.tail }

/-- R53: the flag is the hit bit of `SURF.OFFS` and `SURF.ADDR` and 0 in every other response; the data are 0 where the
command has no result and in every error response; a narrow result is zero-extended; and nothing of a response is kept
after its transfer. -/
def Obligations.FlagAndDataOfResponses : Prop :=
  (∀ (i : Instr) (s t : State) (r : Response), exec i s = .next t → t.phase = .responding r →
    (r.flag = true → r.status = .ok ∧ ∃ p, i = .surfOffs p ∨ i = .surfAddr p) ∧
    (r.status ≠ .ok → r.data = 0) ∧
    ((opcode i).toNat = 0x50 ∨ (opcode i).toNat = 0x51 ∨ 0x60 ≤ (opcode i).toNat → r.data = 0) ∧
    ((∃ p, i = .surfOffs p ∨ i = .surfAddr p) → r.flag = false → r.data = 0) ∧
    ((∃ p, i = .chanAR p ∨ i = .chanAG p ∨ i = .chanAB p ∨ i = .chanAA p) → r.data.toNat < 2 ^ 8) ∧
    ((∃ p, i = .chanBR p ∨ i = .chanBG p ∨ i = .chanBB p) → r.data.toNat < 2 ^ 5) ∧
    ((∃ p, i = .chanBA p) → r.data.toNat < 2) ∧
    ((∃ p, i = .packB p ∨ i = .cvtAB p ∨ i = .gammaB p ∨ i = .surfWidth p ∨ i = .surfHeight p) ∨
      (0x48 ≤ (opcode i).toNat ∧ (opcode i).toNat ≤ 0x4F) ∨
      (∃ p d, i = .surfLoad p ∧ s.surface = some d ∧ d.fmt = .b) → r.data.toNat < 2 ^ 16)) ∧
  ∀ (s : State) (r r' : Response) (pins : Pins) (rest : List Input), s.inputs = .cycle pins :: rest →
    pins.rspReady = true → step { s with phase := .responding r } = step { s with phase := .responding r' }

/-- R54: the codes of the statuses on the response port; R51, R63: `cmd_ready` is high exactly in an idle block, `rsp_valid`
exactly while a response is presented, never both. -/
def Obligations.StatusCodesAndReadySignals : Prop :=
  ([Status.ok, .errIllegal, .errOperand, .errNosurf, .errBusy, .errAlign, .errRange, .errIndex].map
    fun e => (statusCode e).toNat) = [0, 1, 2, 3, 4, 5, 6, 7] ∧
  ∀ s : State,
    (s.cmdReady = true ↔ s.phase = .idle) ∧
    (s.rspValid = true ↔ ∃ r, s.phase = .responding r) ∧
    ¬ (s.cmdReady = true ∧ s.rspValid = true) ∧
    ∀ r, s.phase = .responding r → s.rspFields = some (statusCode r.status, r.flag, r.data)

/-- R51, R63: the handshake, with `rst` low. An idle block takes a command that is offered and otherwise waits; a block with
a response holds it until it is taken, whatever command is offered, and is idle after. The phases, the list of inputs and
the emptying of the access record at a transfer are the model's (log entries 2, 3 and 10). -/
def Obligations.HandshakeOfThePorts : Prop :=
  ∀ (s : State) (pins : Pins) (rest : List Input), s.inputs = .cycle pins :: rest → pins.rst = false →
    (s.phase = .idle →
      (∀ w, pins.cmd = some w → step s = .next { s with phase := .executing w, bus := [], inputs := rest }) ∧
      (pins.cmd = none → step s = .next { s with inputs := rest })) ∧
    (∀ r, s.phase = .responding r →
      (pins.rspReady = true → step s = .next { s with phase := .idle, inputs := rest }) ∧
      (pins.rspReady = false → step s = .next { s with inputs := rest }))

/-- R51: every command gets exactly one response. From an idle state of the invariant, the three steps of transfer,
execution and response transfer, with `rst` low, end idle, having presented one response in between, with the descriptor
and memory that the execution of the command gives. That the execution takes exactly one step is the model's choice (log
entry 17). -/
def Obligations.EachCommandGetsOneResponse : Prop :=
  ∀ (s : State) (w : Command) (p0 p1 p2 : Pins) (rest : List Input), s.Inv → s.phase = .idle →
    s.inputs = [.cycle p0, .cycle p1, .cycle p2] ++ rest →
    p0.rst = false → p1.rst = false → p2.rst = false → p0.cmd = some w → p2.rspReady = true →
    ∃ (u t : State) (r : Response),
      executeCommand w s = .next u ∧ u.phase = .responding r ∧
      Host.Core.run Sys2Proof.core 3 s = .next t ∧
      (∃ v, Host.Core.run Sys2Proof.core 2 s = .next v ∧ v.phase = .responding r) ∧
      t.phase = .idle ∧ t.surface = u.surface ∧ t.mem = u.mem ∧ t.inputs = rest

/-- R190, R51: an accepted command responds: from a state of the invariant with a command in flight, the next step in which
the block sees its pins with `rst` low presents a response. R190 says "a finite number of clock cycles"; that it is one is
the model's choice (log entry 17). -/
def Obligations.AcceptedCommandResponds : Prop :=
  ∀ (s : State) (w : Command), s.Inv → s.phase = .executing w →
    (s.inputs = [] ∨ ∃ pins rest, s.inputs = .cycle pins :: rest ∧ pins.rst = false) →
    ∃ (t : State) (r : Response), step s = .next t ∧ t.phase = .responding r

/-- R180: a step with `rst = 1` clears `S.VALID`, makes the block idle whatever it was doing (`cmd_ready = 1`,
`rsp_valid = 0`), makes no memory access and leaves memory and the waiting inputs alone. -/
def Obligations.ResetClearsValidAndKeepsMemory : Prop :=
  ∀ (s : State) (pins : Pins) (rest : List Input), s.inputs = .cycle pins :: rest → pins.rst = true →
    ∃ t : State, step s = .next t ∧ t.surface = none ∧ t.phase = .idle ∧ t.cmdReady = true ∧ t.rspValid = false ∧
      t.mem = s.mem ∧ (∀ acc, acc ∈ t.bus → acc ∈ s.bus) ∧ t.inputs = rest

/-- R181: reset with a command in flight. Before its execution the command is abandoned with none of its effects; after it,
with the response not yet taken, the response is dropped and the command's write stands whole. Which of the two happens is
unspecified (U5); that the order of the inputs decides it is the model's choice (log entry 13). -/
def Obligations.ResetAbandonsTheCommandInFlight : Prop :=
  ∀ (s : State) (w : Command) (pins quiet : Pins) (rest : List Input), s.Inv → s.phase = .executing w →
    pins.rst = true → quiet.rst = false →
    (s.inputs = .cycle pins :: rest →
      ∃ t, step s = .next t ∧ t.phase = .idle ∧ t.surface = none ∧ t.mem = s.mem) ∧
    (s.inputs = .cycle quiet :: .cycle pins :: rest →
      ∃ t u, executeCommand w s = .next u ∧ Host.Core.run Sys2Proof.core 2 s = .next t ∧
        t.phase = .idle ∧ t.surface = none ∧ t.mem = u.mem)

/-- R18: after reset the block holds no surface; it is idle, and memory is what it was. -/
def Obligations.StateAfterReset : Prop :=
  State.reset.surface = none ∧ State.reset.phase = .idle ∧
    ∀ s : State, s.applyReset.surface = none ∧ s.applyReset.phase = .idle ∧ s.applyReset.mem = s.mem

/-- R182: while the block holds no surface, as after reset, the 30 colour commands in format complete, and every other
command in format but `SURF.SET` responds `ERR_NOSURF`. -/
def Obligations.ColourCommandsNeedNoSurfaceOthersButSetDo : Prop :=
  (∀ s : State, s.applyReset.surface = none) ∧
  ∀ (i : Instr) (s : State), s.surface = none → i.wellFormed = true →
    (isColour i = true → ∃ v : Word, exec i s = .next (s.present ⟨.ok, false, v⟩)) ∧
    (isColour i = false → (∀ p, i ≠ .surfSet p) → exec i s = .next (s.present ⟨.errNosurf, false, 0⟩))

/-- R40, R44: a read by the scanner changes nothing; a direct access of the host between commands changes no more than the
byte written; a host access to a byte of the surface while a command is in flight is refused by name. The refusal and the
treatment of other agents, one byte at a time, are the model's choices (log entries 11, 16 and 21). -/
def Obligations.OutsideAgentsOnlyTouchMemory : Prop :=
  ∀ (s : State) (a : Word) (v : Byte) (rest : List Input), s.mem.wf = true →
    (s.inputs = .scannerRead a :: rest → step s = .next { s with inputs := rest }) ∧
    (s.inputs = .hostRead a :: rest → s.phase = .idle → step s = .next { s with inputs := rest }) ∧
    (s.inputs = .hostWrite a v :: rest → s.phase = .idle →
      ∃ t, step s = .next t ∧ t.surface = s.surface ∧ t.phase = .idle ∧ t.bus = s.bus ∧ t.inputs = rest ∧
        t.mem.wf = true ∧ readByte t.mem a.toNat = v ∧ ∀ b, b ≠ a.toNat → readByte t.mem b = readByte s.mem b) ∧
    (∀ d, s.surface = some d → s.phase ≠ .idle → d.base.toNat ≤ a.toNat → a.toNat < d.base.toNat + d.size →
      (s.inputs = .hostWrite a v :: rest → step s = .refused .hostAccessInFlight) ∧
      (s.inputs = .hostRead a :: rest → step s = .refused .hostAccessInFlight))

/-- The invariant of the machine holds at reset (R18, R180; memory and the model's own fields as log entries 3, 4 and 10 say). -/
def Obligations.InvariantHoldsAtReset : Prop := State.reset.Inv

/-- R13, R14, R31, R34, R35, R161: every step keeps the invariant: memory in canonical form, a legal descriptor, legal error
responses, and at most one access for a command, of exactly `PSIZE` bytes, aligned and inside the owned bytes. The record of
accesses and the canonical form are the model's (log entries 4 and 10). -/
def Obligations.EveryStepKeepsTheInvariant : Prop := ∀ s t : State, s.Inv → step s = .next t → t.Inv

/-- R34, R166: from a state of the invariant no step faults; the one refusal is a direct access of the host to surface
memory while a command is in flight, which is the model's choice (log entry 11). -/
def Obligations.NoStepFaultsFromTheInvariant : Prop :=
  ∀ s : State, s.Inv →
    (∃ t, step s = .next t) ∨
    (step s = .refused .hostAccessInFlight ∧ s.phase ≠ .idle ∧
      ∃ (d : Surface) (a : Word) (rest : List Input), s.surface = some d ∧ d.owns a.toNat = true ∧
        (s.inputs = .hostRead a :: rest ∨ ∃ v, s.inputs = .hostWrite a v :: rest))

/-- R20, R180: over a whole step, a surface the block holds stays as it is unless a `SURF.CLR` executes or `rst` is high. -/
def Obligations.OnlyClearAndResetRemoveTheSurface : Prop :=
  ∀ (s t : State) (d : Surface), s.surface = some d → step s = .next t →
    t.surface = some d ∨
    (t.surface = none ∧
      ((∃ pins rest, s.inputs = .cycle pins :: rest ∧ pins.rst = true) ∨
        ∃ w p, s.phase = .executing w ∧ decode w = .ok (.surfClr p)))

/-- R31, R35, R44: over a whole step, a byte changes only when the host writes it, or when a `DRAW` or `STORE` executes on a
surface that owns it. -/
def Obligations.MemoryChangesOnlyByStoresAndTheHost : Prop :=
  ∀ (s t : State) (b : Nat), s.Inv → step s = .next t → readByte t.mem b ≠ readByte s.mem b →
    (∃ (a : Word) (v : Byte) (rest : List Input), s.inputs = .hostWrite a v :: rest ∧ b = a.toNat) ∨
    ∃ (d : Surface) (w : Command) (p : Operands), s.surface = some d ∧ d.owns b = true ∧ s.phase = .executing w ∧
      (decode w = .ok (.drawA p) ∨ decode w = .ok (.drawB p) ∨ decode w = .ok (.storeA p) ∨ decode w = .ok (.storeB p))
end

