-- ==== Sys2Proof/Laws/Bits.lean ====
section
/-! SUPPORT. The operand check and the operand and colour fields as arithmetic on natural numbers, one lemma each. -/

namespace Sys2Proof.Machine

/-- A mask of the low `n` bits admits exactly the words below `2^n`. -/
theorem and_not_low_mask (w : Word) (n : Nat) (hn : n ≤ 32) :
    w &&& ~~~(BitVec.ofNat 32 (2 ^ n - 1)) = 0 ↔ w.toNat < 2 ^ n := by
  have hp : 2 ^ n ≤ 2 ^ 32 := Nat.pow_le_pow_right (by decide) hn
  have hpos := Nat.two_pow_pos n
  have hm : (w &&& BitVec.ofNat 32 (2 ^ n - 1)).toNat = w.toNat % 2 ^ n := by
    rw [BitVec.toNat_and, BitVec.toNat_ofNat, Nat.mod_eq_of_lt (by omega), Nat.and_two_pow_sub_one_eq_mod]
  constructor
  · intro h
    have : w &&& BitVec.ofNat 32 (2 ^ n - 1) = w := by
      ext i hi
      have := congrArg (fun v => v.getLsbD i) h
      simp only [BitVec.getLsbD_and, BitVec.getLsbD_not] at this
      simp only [← BitVec.getLsbD_eq_getElem]
      grind
    rw [this] at hm
    rw [hm]
    exact Nat.mod_lt _ hpos
  · intro h
    have : w &&& BitVec.ofNat 32 (2 ^ n - 1) = w := BitVec.eq_of_toNat_eq (by rw [hm, Nat.mod_eq_of_lt h])
    rw [← this, BitVec.and_assoc, BitVec.and_not_self]
    simp

theorem fits_0xFF (w : Word) : fits w 0xFF = true ↔ w.toNat < 256 := by
  simpa [fits] using and_not_low_mask w 8 (by decide)
theorem fits_0x1F (w : Word) : fits w 0x1F = true ↔ w.toNat < 32 := by
  simpa [fits] using and_not_low_mask w 5 (by decide)
theorem fits_0x01 (w : Word) : fits w 0x01 = true ↔ w.toNat < 2 := by
  simpa [fits] using and_not_low_mask w 1 (by decide)
theorem fits_0x3 (w : Word) : fits w 0x3 = true ↔ w.toNat < 4 := by
  simpa [fits] using and_not_low_mask w 2 (by decide)
theorem fits_0xFFFF (w : Word) : fits w 0xFFFF = true ↔ w.toNat < 2 ^ 16 := by
  simpa [fits] using and_not_low_mask w 16 (by decide)
@[simp] theorem fits_zero (w : Word) : fits w 0 = true ↔ w = 0 := by
  have h : ~~~(0 : Word) = BitVec.allOnes 32 := by decide
  simp only [fits, h, BitVec.and_allOnes, beq_iff_eq]
@[simp] theorem fits_ones (w : Word) : fits w 0xFFFFFFFF = true := by
  have h : ~~~(0xFFFFFFFF : Word) = 0 := by decide
  simp only [fits, h, beq_iff_eq]
  exact BitVec.and_zero

theorem chan8_toNat (w : Word) : (chan8 w).toNat = w.toNat % 256 := by simp [chan8]
theorem chan5_toNat (w : Word) : (chan5 w).toNat = w.toNat % 32 := by simp [chan5]
theorem chan1_toNat (w : Word) : (chan1 w).toNat = w.toNat % 2 := by simp [chan1]
theorem half_toNat (w : Word) : (half w).toNat = w.toNat % 2 ^ 16 := by simp [half]

/-- The source's `|` "could as well be `+`" (R70), Format A. -/
theorem packWordA_toNat (r g b a : Byte) :
    (packWordA r g b a).toNat = r.toNat * 2 ^ 24 + g.toNat * 2 ^ 16 + b.toNat * 2 ^ 8 + a.toNat := by
  have hr := r.isLt; have hg := g.isLt; have hb := b.isLt; have ha := a.isLt
  have h3 : ((r.setWidth 32 <<< 24) ||| (g.setWidth 32 <<< 16) ||| (b.setWidth 32 <<< 8)) &&& (a.setWidth 32) = 0 := by
    ext i hi; simp; grind
  have h2 : ((r.setWidth 32 <<< 24) ||| (g.setWidth 32 <<< 16)) &&& (b.setWidth 32 <<< 8) = 0 := by
    ext i hi; simp; grind
  have h1 : (r.setWidth 32 <<< 24) &&& (g.setWidth 32 <<< 16) = 0 := by
    ext i hi; simp; grind
  have e : packWordA r g b a = (r.setWidth 32 <<< 24) + (g.setWidth 32 <<< 16) + (b.setWidth 32 <<< 8) + (a.setWidth 32) := by
    unfold packWordA
    rw [BitVec.add_eq_or_of_and_eq_zero _ _ h1, BitVec.add_eq_or_of_and_eq_zero _ _ h2, BitVec.add_eq_or_of_and_eq_zero _ _ h3]
  rw [e]
  simp only [BitVec.toNat_add, BitVec.toNat_shiftLeft, BitVec.toNat_setWidth, Nat.shiftLeft_eq]
  omega

/-- The source's `|` "could as well be `+`" (R70), Format B. -/
theorem packWordB_toNat (r g b : BitVec 5) (a : BitVec 1) :
    (packWordB r g b a).toNat = r.toNat * 2 ^ 11 + g.toNat * 2 ^ 6 + b.toNat * 2 + a.toNat := by
  have hr := r.isLt; have hg := g.isLt; have hb := b.isLt; have ha := a.isLt
  have h3 : ((r.setWidth 16 <<< 11) ||| (g.setWidth 16 <<< 6) ||| (b.setWidth 16 <<< 1)) &&& (a.setWidth 16) = 0 := by
    ext i hi; simp; grind
  have h2 : ((r.setWidth 16 <<< 11) ||| (g.setWidth 16 <<< 6)) &&& (b.setWidth 16 <<< 1) = 0 := by
    ext i hi; simp; grind
  have h1 : (r.setWidth 16 <<< 11) &&& (g.setWidth 16 <<< 6) = 0 := by
    ext i hi; simp; grind
  have e : packWordB r g b a = (r.setWidth 16 <<< 11) + (g.setWidth 16 <<< 6) + (b.setWidth 16 <<< 1) + (a.setWidth 16) := by
    unfold packWordB
    rw [BitVec.add_eq_or_of_and_eq_zero _ _ h1, BitVec.add_eq_or_of_and_eq_zero _ _ h2, BitVec.add_eq_or_of_and_eq_zero _ _ h3]
  rw [e]
  simp only [BitVec.toNat_add, BitVec.toNat_shiftLeft, BitVec.toNat_setWidth, Nat.shiftLeft_eq]
  omega

/-- Two bytes, the first most significant. -/
theorem toNat_append2 (p q : Byte) : ((p ++ q).cast (by decide) : Half).toNat = p.toNat * 2 ^ 8 + q.toNat := by
  have hq := q.isLt
  rw [BitVec.toNat_cast, BitVec.toNat_append, ← Nat.shiftLeft_add_eq_or_of_lt hq, Nat.shiftLeft_eq]

/-- Four bytes, the first most significant. -/
theorem toNat_append4 (p q r t : Byte) :
    ((p ++ q ++ r ++ t).cast (by decide) : Word).toNat =
      p.toNat * 2 ^ 24 + q.toNat * 2 ^ 16 + r.toNat * 2 ^ 8 + t.toNat := by
  have hq := q.isLt; have hr := r.isLt; have ht := t.isLt
  rw [BitVec.toNat_cast, BitVec.toNat_append, BitVec.toNat_append, BitVec.toNat_append,
    ← Nat.shiftLeft_add_eq_or_of_lt hq, ← Nat.shiftLeft_add_eq_or_of_lt hr, ← Nat.shiftLeft_add_eq_or_of_lt ht]
  simp only [Nat.shiftLeft_eq]
  omega

end Sys2Proof.Machine
end

