-- ==== Sys2Proof/Laws/Memory.lean ====
section
/-! SUPPORT. Memory: read after write, writes leave every other byte alone, and every operation keeps the canonical form. -/

namespace Sys2Proof.Machine

theorem lookup_writeByte (m : Memory) (a b : Nat) (v : Byte) (h : m.wf = true) :
    lookup (writeByte m a v) b = if b = a then some v else lookup m b := by
  suffices H : ∀ (m : Memory) (lo : Nat), wfFrom lo m = true →
      lookup (writeByte m a v) b = if b = a then some v else lookup m b from H m 0 h
  intro m
  induction m with
  | nil => intro lo _; simp [writeByte, lookup]
  | cons c m ih =>
    obtain ⟨k, w⟩ := c
    intro lo hw
    simp only [wfFrom, Bool.and_eq_true, decide_eq_true_eq] at hw
    by_cases h1 : a < k
    · simp [writeByte, h1, lookup]
    · by_cases h2 : a = k
      · subst h2; by_cases hb : b = a <;> simp [writeByte, lookup, hb]
      · by_cases hb : b = k
        · have : b ≠ a := by omega
          subst hb; simp [writeByte, h1, h2, lookup, this]
        · simp [writeByte, h1, h2, lookup, hb, ih (k + 1) hw.2]

theorem readByte_writeByte (m : Memory) (a b : Nat) (v : Byte) (h : m.wf = true) :
    readByte (writeByte m a v) b = if b = a then v else readByte m b := by
  unfold readByte
  rw [lookup_writeByte m a b v h]
  by_cases hb : b = a <;> simp [hb]

theorem wfFrom_mono {lo lo' : Nat} {m : Memory} (h : wfFrom lo m = true) (hle : lo' ≤ lo) : wfFrom lo' m = true := by
  cases m with
  | nil => rfl
  | cons c m =>
    obtain ⟨k, w⟩ := c
    simp only [wfFrom, Bool.and_eq_true, decide_eq_true_eq] at h ⊢
    exact ⟨⟨by omega, h.1.2⟩, h.2⟩

theorem wfFrom_writeByte (a : Nat) (v : Byte) (ha : a < 2 ^ 32) :
    ∀ (m : Memory) (lo : Nat), lo ≤ a → wfFrom lo m = true → wfFrom lo (writeByte m a v) = true := by
  intro m
  induction m with
  | nil => intro lo hlo _; simp [writeByte, wfFrom]; omega
  | cons c m ih =>
    obtain ⟨k, w⟩ := c
    intro lo hlo h
    simp only [wfFrom, Bool.and_eq_true, decide_eq_true_eq] at h
    unfold writeByte
    split
    · simp only [wfFrom, Bool.and_eq_true, decide_eq_true_eq]
      exact ⟨⟨hlo, ha⟩, ⟨by omega, h.1.2⟩, h.2⟩
    · split
      · rename_i h2
        simp only [wfFrom, Bool.and_eq_true, decide_eq_true_eq]
        exact ⟨⟨hlo, ha⟩, by rw [h2]; exact h.2⟩
      · simp only [wfFrom, Bool.and_eq_true, decide_eq_true_eq]
        exact ⟨h.1, ih (k + 1) (by omega) h.2⟩

/-- A byte write inside the address space keeps the canonical form. -/
theorem writeByte_wf (m : Memory) (a : Nat) (v : Byte) (ha : a < 2 ^ 32) (h : m.wf = true) :
    Memory.wf (writeByte m a v) = true := wfFrom_writeByte a v ha m 0 (Nat.zero_le _) h

/-- A pixel write inside the address space keeps the canonical form. -/
theorem writePixel_wf (m : Memory) (a : Nat) (px : Pixel) (ha : a + pixelBytes px.fmt ≤ 2 ^ 32) (h : m.wf = true) :
    Memory.wf (writePixel m a px) = true := by
  cases px with
  | a w =>
    simp only [Pixel.fmt, pixelBytes] at ha
    exact writeByte_wf _ _ _ (by omega) (writeByte_wf _ _ _ (by omega)
      (writeByte_wf _ _ _ (by omega) (writeByte_wf _ _ _ (by omega) h)))
  | b w =>
    simp only [Pixel.fmt, pixelBytes] at ha
    exact writeByte_wf _ _ _ (by omega) (writeByte_wf _ _ _ (by omega) h)

/-- The bytes of a pixel as `MemWrite` places them (R33): byte `k` from the lowest address. -/
def pixelByte : Pixel → Nat → Byte
  | .a w, k => w.extractLsb' (24 - 8 * k) 8
  | .b w, k => w.extractLsb' (8 - 8 * k) 8

/-- Everything a pixel write does to what a byte reads as. -/
theorem readByte_writePixel (m : Memory) (a b : Nat) (px : Pixel) (ha : a + pixelBytes px.fmt ≤ 2 ^ 32) (h : m.wf = true) :
    readByte (writePixel m a px) b =
      if a ≤ b ∧ b < a + pixelBytes px.fmt then pixelByte px (b - a) else readByte m b := by
  cases px with
  | a w =>
    simp only [Pixel.fmt, pixelBytes] at ha ⊢
    have h1 := writeByte_wf m a (w.extractLsb' 24 8) (by omega) h
    have h2 := writeByte_wf _ (a + 1) (w.extractLsb' 16 8) (by omega) h1
    have h3 := writeByte_wf _ (a + 2) (w.extractLsb' 8 8) (by omega) h2
    simp only [writePixel]
    rw [readByte_writeByte _ _ _ _ h3, readByte_writeByte _ _ _ _ h2, readByte_writeByte _ _ _ _ h1,
      readByte_writeByte _ _ _ _ h]
    by_cases hb : a ≤ b ∧ b < a + 4
    · obtain ⟨k, rfl⟩ := Nat.exists_eq_add_of_le hb.1
      have hk : k < 4 := by omega
      interval_cases k <;> simp [pixelByte]
    · rw [if_neg (by omega), if_neg (by omega), if_neg (by omega), if_neg (by omega)]
      exact (if_neg hb).symm
  | b w =>
    simp only [Pixel.fmt, pixelBytes] at ha ⊢
    have h1 := writeByte_wf m a (w.extractLsb' 8 8) (by omega) h
    simp only [writePixel]
    rw [readByte_writeByte _ _ _ _ h1, readByte_writeByte _ _ _ _ h]
    by_cases hb : a ≤ b ∧ b < a + 2
    · obtain ⟨k, rfl⟩ := Nat.exists_eq_add_of_le hb.1
      have hk : k < 2 := by omega
      interval_cases k <;> simp [pixelByte]
    · rw [if_neg (by omega), if_neg (by omega)]
      exact (if_neg hb).symm

/-- Every byte outside a written pixel reads as before. -/
theorem readByte_writePixel_outside (m : Memory) (a b : Nat) (px : Pixel) (ha : a + pixelBytes px.fmt ≤ 2 ^ 32)
    (h : m.wf = true) (hb : b < a ∨ a + pixelBytes px.fmt ≤ b) :
    readByte (writePixel m a px) b = readByte m b := by
  rw [readByte_writePixel m a b px ha h, if_neg (by omega)]

/-- A pixel read after a write of a pixel of the same format to the same address gives the pixel written. -/
theorem readPixel_writePixel (m : Memory) (a : Nat) (px : Pixel) (ha : a + pixelBytes px.fmt ≤ 2 ^ 32) (h : m.wf = true) :
    readPixel (writePixel m a px) a px.fmt = px := by
  have H := fun b => readByte_writePixel m a b px ha h
  cases px with
  | a v =>
    have hv := v.isLt
    have h0 := (H a).trans (if_pos (by simp [Pixel.fmt, pixelBytes]))
    have h1 := (H (a + 1)).trans (if_pos (by simp [Pixel.fmt, pixelBytes]))
    have h2 := (H (a + 2)).trans (if_pos (by simp [Pixel.fmt, pixelBytes]))
    have h3 := (H (a + 3)).trans (if_pos (by simp [Pixel.fmt, pixelBytes]))
    refine congrArg Pixel.a (BitVec.eq_of_toNat_eq ?_)
    rw [toNat_append4, h0, h1, h2, h3]
    simp only [Nat.add_sub_cancel_left, Nat.sub_self, pixelByte, BitVec.extractLsb'_toNat, Nat.shiftRight_eq_div_pow]
    omega
  | b v =>
    have hv := v.isLt
    have h0 := (H a).trans (if_pos (by simp [Pixel.fmt, pixelBytes]))
    have h1 := (H (a + 1)).trans (if_pos (by simp [Pixel.fmt, pixelBytes]))
    refine congrArg Pixel.b (BitVec.eq_of_toNat_eq ?_)
    rw [toNat_append2, h0, h1]
    simp only [Nat.add_sub_cancel_left, Nat.sub_self, pixelByte, BitVec.extractLsb'_toNat, Nat.shiftRight_eq_div_pow]
    omega

end Sys2Proof.Machine
end

