-- ==== Sys2Proof/Laws/State.lean ====
section
/-! SUPPORT. One lemma per field per update of the state, true by definition, so that no proof unfolds a record update. -/

namespace Sys2Proof.Machine

@[simp] theorem State.present_surface (s : State) (r : Response) : (s.present r).surface = s.surface := rfl
@[simp] theorem State.present_mem (s : State) (r : Response) : (s.present r).mem = s.mem := rfl
@[simp] theorem State.present_phase (s : State) (r : Response) : (s.present r).phase = .responding r := rfl
@[simp] theorem State.present_bus (s : State) (r : Response) : (s.present r).bus = s.bus := rfl
@[simp] theorem State.present_inputs (s : State) (r : Response) : (s.present r).inputs = s.inputs := rfl

@[simp] theorem State.erred_surface (s : State) (e : Status) : (s.erred e).surface = s.surface := rfl
@[simp] theorem State.erred_mem (s : State) (e : Status) : (s.erred e).mem = s.mem := rfl
@[simp] theorem State.erred_phase (s : State) (e : Status) : (s.erred e).phase = .responding { status := e, flag := false, data := 0 } := rfl
@[simp] theorem State.erred_bus (s : State) (e : Status) : (s.erred e).bus = s.bus := rfl
@[simp] theorem State.erred_inputs (s : State) (e : Status) : (s.erred e).inputs = s.inputs := rfl

@[simp] theorem State.takeResponse_surface (s : State) : (s.takeResponse).surface = s.surface := rfl
@[simp] theorem State.takeResponse_mem (s : State) : (s.takeResponse).mem = s.mem := rfl
@[simp] theorem State.takeResponse_phase (s : State) : (s.takeResponse).phase = .idle := rfl
@[simp] theorem State.takeResponse_bus (s : State) : (s.takeResponse).bus = s.bus := rfl
@[simp] theorem State.takeResponse_inputs (s : State) : (s.takeResponse).inputs = s.inputs := rfl

@[simp] theorem State.requestRead_surface (s : State) (a : Word) (n : Nat) : (s.requestRead a n).surface = s.surface := rfl
@[simp] theorem State.requestRead_mem (s : State) (a : Word) (n : Nat) : (s.requestRead a n).mem = s.mem := rfl
@[simp] theorem State.requestRead_phase (s : State) (a : Word) (n : Nat) : (s.requestRead a n).phase = s.phase := rfl
@[simp] theorem State.requestRead_bus (s : State) (a : Word) (n : Nat) : (s.requestRead a n).bus = s.bus ++ [.read a n] := rfl
@[simp] theorem State.requestRead_inputs (s : State) (a : Word) (n : Nat) : (s.requestRead a n).inputs = s.inputs := rfl

@[simp] theorem State.requestWrite_surface (s : State) (a : Word) (px : Pixel) : (s.requestWrite a px).surface = s.surface := rfl
@[simp] theorem State.requestWrite_mem (s : State) (a : Word) (px : Pixel) : (s.requestWrite a px).mem = writePixel s.mem a.toNat px := rfl
@[simp] theorem State.requestWrite_phase (s : State) (a : Word) (px : Pixel) : (s.requestWrite a px).phase = s.phase := rfl
@[simp] theorem State.requestWrite_bus (s : State) (a : Word) (px : Pixel) : (s.requestWrite a px).bus = s.bus ++ [.write a px] := rfl
@[simp] theorem State.requestWrite_inputs (s : State) (a : Word) (px : Pixel) : (s.requestWrite a px).inputs = s.inputs := rfl

@[simp] theorem State.applyReset_surface (s : State) : (s.applyReset).surface = none := rfl
@[simp] theorem State.applyReset_mem (s : State) : (s.applyReset).mem = s.mem := rfl
@[simp] theorem State.applyReset_phase (s : State) : (s.applyReset).phase = .idle := rfl
@[simp] theorem State.applyReset_bus (s : State) : (s.applyReset).bus = [] := rfl
@[simp] theorem State.applyReset_inputs (s : State) : (s.applyReset).inputs = s.inputs := rfl

@[simp] theorem State.accept_surface (s : State) (w : Command) : (s.accept w).surface = s.surface := rfl
@[simp] theorem State.accept_mem (s : State) (w : Command) : (s.accept w).mem = s.mem := rfl
@[simp] theorem State.accept_phase (s : State) (w : Command) : (s.accept w).phase = .executing w := rfl
@[simp] theorem State.accept_bus (s : State) (w : Command) : (s.accept w).bus = [] := rfl
@[simp] theorem State.accept_inputs (s : State) (w : Command) : (s.accept w).inputs = s.inputs := rfl

@[simp] theorem State.consumed_surface (s : State) : (s.consumed).surface = s.surface := rfl
@[simp] theorem State.consumed_mem (s : State) : (s.consumed).mem = s.mem := rfl
@[simp] theorem State.consumed_phase (s : State) : (s.consumed).phase = s.phase := rfl
@[simp] theorem State.consumed_bus (s : State) : (s.consumed).bus = s.bus := rfl
@[simp] theorem State.consumed_inputs (s : State) : (s.consumed).inputs = s.inputs.tail := rfl

@[simp] theorem State.withCommand_surface (s : State) (w : Command) : (s.withCommand w).surface = s.surface := rfl
@[simp] theorem State.withCommand_mem (s : State) (w : Command) : (s.withCommand w).mem = s.mem := rfl
@[simp] theorem State.withCommand_phase (s : State) (w : Command) : (s.withCommand w).phase = .executing w := rfl
@[simp] theorem State.withCommand_bus (s : State) (w : Command) : (s.withCommand w).bus = [] := rfl
@[simp] theorem State.withCommand_inputs (s : State) (w : Command) : (s.withCommand w).inputs = .cycle quietPins :: s.inputs := rfl

@[simp] theorem State.reset_surface : State.reset.surface = none := rfl
@[simp] theorem State.reset_mem : State.reset.mem = [] := rfl
@[simp] theorem State.reset_phase : State.reset.phase = .idle := rfl
@[simp] theorem State.reset_bus : State.reset.bus = [] := rfl
@[simp] theorem State.reset_inputs : State.reset.inputs = [] := rfl

theorem State.respond_eq (s : State) (flag : Bool) (data : Word) :
    s.respond flag data = .next (s.present { status := .ok, flag := flag, data := data }) := rfl

theorem State.raise_eq (s : State) (e : Status) : s.raise e = .next (s.erred e) := rfl

end Sys2Proof.Machine
end

