-- ==== Sys2Proof/Laws/Ops.lean ====
section
/-! SUPPORT. For each shared operation, everything it can do; and for `exec`, the six effects a command can have. -/

namespace Sys2Proof.Machine

/-! ### Responding -/

theorem respond_next {s t : State} {flag : Bool} {data : Word} :
    s.respond flag data = .next t ↔ t = s.present { status := .ok, flag := flag, data := data } := by
  simp [State.respond, eq_comm]

theorem raise_next {s t : State} {e : Status} : s.raise e = .next t ↔ t = s.erred e := by
  simp [State.raise, eq_comm]

/-! ### Checks -/

theorem fits_iff (w mask : Word) : fits w mask = true ↔ w &&& ~~~mask = 0 := by simp [fits]

theorem checkOperands_pos {f : OperandFormat} {p : Operands} (s : State) (k : Result) (h : inFormat f p = true) :
    checkOperands f p s k = k := by simp [checkOperands, h]

theorem checkOperands_neg {f : OperandFormat} {p : Operands} (s : State) (k : Result) (h : inFormat f p = false) :
    checkOperands f p s k = s.raise .errOperand := by simp [checkOperands, h]

theorem checkOperands_next {f : OperandFormat} {p : Operands} {s t : State} {k : Result}
    (h : checkOperands f p s k = .next t) :
    (inFormat f p = true ∧ k = .next t) ∨ (inFormat f p = false ∧ t = s.erred .errOperand) := by
  cases hf : inFormat f p with
  | true => rw [checkOperands_pos s k hf] at h; exact .inl ⟨rfl, h⟩
  | false => rw [checkOperands_neg s k hf] at h; exact .inr ⟨rfl, raise_next.1 h⟩

theorem withSurface_some {s : State} {d : Surface} (k : Surface → Result) (h : s.surface = some d) :
    withSurface s k = k d := by simp [withSurface, h]

theorem withSurface_none {s : State} (k : Surface → Result) (h : s.surface = none) :
    withSurface s k = s.raise .errNosurf := by simp [withSurface, h]

theorem withSurface_next {s t : State} {k : Surface → Result} (h : withSurface s k = .next t) :
    (∃ d, s.surface = some d ∧ k d = .next t) ∨ (s.surface = none ∧ t = s.erred .errNosurf) := by
  cases hd : s.surface with
  | some d => rw [withSurface_some k hd] at h; exact .inl ⟨d, rfl, h⟩
  | none => rw [withSurface_none k hd] at h; exact .inr ⟨rfl, raise_next.1 h⟩

theorem checkIndex_next {idx : Word} {d : Surface} {s t : State} {k : Result} (h : checkIndex idx d s k = .next t) :
    (idx.toNat < d.count ∧ k = .next t) ∨ (¬ idx.toNat < d.count ∧ t = s.erred .errIndex) := by
  unfold checkIndex at h
  split at h
  · exact .inl ⟨‹_›, h⟩
  · exact .inr ⟨‹_›, raise_next.1 h⟩

/-! ### Pixel accesses -/

theorem loadPixel_next {s t : State} {a : Word} {f : Format} (h : loadPixel s a f = .next t) :
    aligned a f = true ∧ t = (s.requestRead a (pixelBytes f)).present
      { status := .ok, flag := false, data := (readPixel s.mem a.toNat f).data } := by
  unfold loadPixel at h
  split at h
  · exact ⟨‹_›, respond_next.1 h⟩
  · cases h

theorem storePixel_next {s t : State} {a : Word} {px : Pixel} (h : storePixel s a px = .next t) :
    aligned a px.fmt = true ∧ t = (s.requestWrite a px).present { status := .ok, flag := false, data := 0 } := by
  unfold storePixel at h
  split at h
  · exact ⟨‹_›, respond_next.1 h⟩
  · cases h

theorem drawPixel_next {policy : BoundsPolicy} {d : Surface} {x y : Int} {px : Pixel} {s t : State}
    (h : drawPixel policy d x y px s = .next t) :
    (inBounds policy d x y = true ∧ storePixel s (d.pointAddr x y) px = .next t) ∨
      (inBounds policy d x y = false ∧ t = s.present { status := .ok, flag := false, data := 0 }) := by
  unfold drawPixel at h
  split at h
  · exact .inl ⟨‹_›, h⟩
  · exact .inr ⟨Bool.eq_false_iff.2 ‹_›, respond_next.1 h⟩

@[simp] theorem nativeA_fmt (c : Word) (f : Format) : (nativeA c f).fmt = f := by cases f <;> rfl
@[simp] theorem nativeB_fmt (c : Half) (f : Format) : (nativeB c f).fmt = f := by cases f <;> rfl

/-! ### The descriptor -/

theorem setSurface_next {displayAlign : Nat} {d : Surface} {s t : State} (h : setSurface displayAlign d s = .next t) :
    (d.base.toNat % alignOf displayAlign d.purpose d.fmt ≠ 0 ∧ t = s.erred .errAlign) ∨
    (d.base.toNat % alignOf displayAlign d.purpose d.fmt = 0 ∧ d.base.toNat + d.size > 2 ^ 32 ∧ t = s.erred .errRange) ∨
    (d.base.toNat % alignOf displayAlign d.purpose d.fmt = 0 ∧ d.base.toNat + d.size ≤ 2 ^ 32 ∧
      t = State.present { s with surface := some d } { status := .ok, flag := false, data := 0 }) := by
  unfold setSurface at h
  split at h
  · exact .inl ⟨‹_›, raise_next.1 h⟩
  · split at h
    · exact .inr (.inl ⟨by omega, ‹_›, raise_next.1 h⟩)
    · exact .inr (.inr ⟨by omega, by omega, respond_next.1 h⟩)

theorem alignOf_general (displayAlign : Nat) (f : Format) : alignOf displayAlign .generalBuffer f = 16 := by
  cases f <;> rfl

theorem displayAlign_eq : Config.displayAlign = 16 * 2 ^ Config.displayAlignShift := by
  simp [Config.displayAlign, Nat.pow_add]

/-- "`ALIGN` is 16 for a general buffer and `DisplayAlign` for a display framebuffer" (R13). -/
theorem alignOf_display (f : Format) : alignOf Config.displayAlign .displayFramebuffer f = Config.displayAlign := by
  have h : 1 ≤ 2 ^ Config.displayAlignShift := Nat.one_le_two_pow
  have := displayAlign_eq
  cases f <;> simp [alignOf, pixelBytes] <;> omega

/-- The alignment of every surface is a multiple of 16, so of every pixel size (R34). -/
theorem sixteen_dvd_align (d : Surface) : 16 ∣ d.align := by
  unfold Surface.align
  cases d.purpose with
  | generalBuffer => rw [alignOf_general]
  | displayFramebuffer => rw [alignOf_display, displayAlign_eq]; exact Dvd.intro _ rfl

theorem Surface.Legal.base_mod_sixteen {d : Surface} (h : d.Legal) : d.base.toNat % 16 = 0 :=
  Nat.mod_eq_zero_of_dvd (Nat.dvd_trans (sixteen_dvd_align d) (Nat.dvd_of_mod_eq_zero h.1))

theorem pixelBytes_cases (f : Format) : pixelBytes f = 4 ∨ pixelBytes f = 2 := by cases f <;> simp [pixelBytes]

/-- Pixel `k` of a legal surface: its address does not wrap (R147). -/
theorem Surface.Legal.pixelAddr_toNat {d : Surface} (h : d.Legal) {k : Nat} (hk : k < d.count) :
    (d.pixelAddr k).toNat = d.base.toNat + k * d.psize ∧ d.base.toNat + k * d.psize + d.psize ≤ d.base.toNat + d.size := by
  have hs : k * d.psize + d.psize ≤ d.size := by
    have : (k + 1) * d.psize ≤ d.count * d.psize := Nat.mul_le_mul_right _ hk
    simpa [Surface.size, Nat.add_mul] using this
  have hp : 0 < d.psize := by rcases pixelBytes_cases d.fmt with h | h <;> simp [Surface.psize, h]
  have h2 := h.2
  refine ⟨?_, by omega⟩
  simp only [Surface.pixelAddr, BitVec.toNat_ofNat]
  exact Nat.mod_eq_of_lt (by omega)

/-- Pixel `k` of a legal surface: its address is aligned (R34). -/
theorem Surface.Legal.aligned_pixelAddr {d : Surface} (h : d.Legal) {k : Nat} (hk : k < d.count) :
    aligned (d.pixelAddr k) d.fmt = true := by
  simp only [aligned, beq_iff_eq]
  rw [(h.pixelAddr_toNat hk).1]
  have := h.base_mod_sixteen
  rcases pixelBytes_cases d.fmt with hf | hf <;> simp only [Surface.psize, hf] <;> omega

/-- A hit under `Strict` has an offset below `COUNT` (R142). -/
theorem offset_lt_count {d : Surface} {x y : Int} (h : inBounds .strict d x y = true) : d.offset x y < d.count := by
  simp only [inBounds, Bool.and_eq_true, decide_eq_true_eq] at h
  obtain ⟨⟨hx, hxw⟩, hy, hyh⟩ := h
  have h1 : y.toNat + 1 ≤ d.height.toNat := by omega
  have h2 := Nat.mul_le_mul_right d.width.toNat h1
  simp only [Surface.offset, Surface.count]
  rw [Nat.mul_comm d.width.toNat]
  rw [Nat.add_mul] at h2
  omega

/-! ### What a command can do -/

end Sys2Proof.Machine

namespace Sys2Proof

/-- Not one of the three commands that complete with an effect beside the response on every path: `SURF.SET`, `SURF.CLR`,
`SURF.LOAD`. -/
def Instr.MayAnswerOnly (i : Instr) : Prop :=
  (∀ p, i ≠ .surfSet p) ∧ (∀ p, i ≠ .surfClr p) ∧ ∀ p, i ≠ .surfLoad p

/-- One of the four commands that store a pixel. -/
def Instr.StoresPixels (i : Instr) : Prop :=
  ∃ p, i = .drawA p ∨ i = .drawB p ∨ i = .storeA p ∨ i = .storeB p

theorem Instr.StoresPixels.mayAnswerOnly {i : Instr} (h : i.StoresPixels) : i.MayAnswerOnly := by
  obtain ⟨p, rfl | rfl | rfl | rfl⟩ := h <;> exact ⟨fun _ => nofun, fun _ => nofun, fun _ => nofun⟩

end Sys2Proof

namespace Sys2Proof.Machine

/-- The effects a command can have, with everything that is known of each. -/
inductive Effect (i : Instr) (s : State) : State → Prop
  /-- An error response (R161). -/
  | error (e : Status) (h : e ≠ .ok) : Effect i s (s.erred e)
  /-- A response and nothing else. -/
  | answer (hi : i.MayAnswerOnly) (flag : Bool) (data : Word) : Effect i s (s.present { status := .ok, flag := flag, data := data })
  /-- `SURF.SET` completes (R131). -/
  | set (p : Operands) (hi : i = .surfSet p) (hs : s.surface = none) (hl : (describedSurface p).Legal) :
      Effect i s (State.present { s with surface := some (describedSurface p) } { status := .ok, flag := false, data := 0 })
  /-- `SURF.CLR` completes (R132). -/
  | clear (p : Operands) (hi : i = .surfClr p) (d : Surface) (hs : s.surface = some d) :
      Effect i s (State.present { s with surface := none } { status := .ok, flag := false, data := 0 })
  /-- `SURF.LOAD` completes (R146). -/
  | load (p : Operands) (hi : i = .surfLoad p) (d : Surface) (hs : s.surface = some d) (k : Nat) (hk : k < d.count)
      (ha : aligned (d.pixelAddr k) d.fmt = true) :
      Effect i s ((s.requestRead (d.pixelAddr k) d.psize).present
        { status := .ok, flag := false, data := (readPixel s.mem (d.pixelAddr k).toNat d.fmt).data })
  /-- A pixel is stored (R148, R149, R151, R152). -/
  | store (hi : i.StoresPixels) (d : Surface) (hs : s.surface = some d) (k : Nat) (hk : k < d.count) (px : Pixel) (hp : px.fmt = d.fmt)
      (ha : aligned (d.pixelAddr k) d.fmt = true) :
      Effect i s ((s.requestWrite (d.pixelAddr k) px).present { status := .ok, flag := false, data := 0 })

theorem Effect.of_check {i : Instr} {f : OperandFormat} {p : Operands} {s t : State} {k : Result}
    (h : checkOperands f p s k = .next t) (hk : k = .next t → Effect i s t) : Effect i s t := by
  rcases checkOperands_next h with ⟨_, h⟩ | ⟨_, rfl⟩
  · exact hk h
  · exact .error _ (by decide)

theorem Effect.of_surface {i : Instr} {s t : State} {k : Surface → Result} (h : withSurface s k = .next t)
    (hk : ∀ d, s.surface = some d → k d = .next t → Effect i s t) : Effect i s t := by
  rcases withSurface_next h with ⟨d, hd, h⟩ | ⟨_, rfl⟩
  · exact hk d hd h
  · exact .error _ (by decide)

theorem Effect.of_index {i : Instr} {idx : Word} {d : Surface} {s t : State} {k : Result}
    (h : checkIndex idx d s k = .next t) (hk : idx.toNat < d.count → k = .next t → Effect i s t) : Effect i s t := by
  rcases checkIndex_next h with ⟨hi, h⟩ | ⟨_, rfl⟩
  · exact hk hi h
  · exact .error _ (by decide)

theorem Effect.of_respond {i : Instr} {s t : State} {flag : Bool} {data : Word} (hi : i.MayAnswerOnly)
    (h : s.respond flag data = .next t) :
    Effect i s t := by
  rw [respond_next] at h
  exact h ▸ .answer hi flag data

theorem Effect.of_store {i : Instr} {s t : State} {d : Surface} {k : Nat} {px : Pixel} (hi : i.StoresPixels) (hs : s.surface = some d)
    (hk : k < d.count) (hp : px.fmt = d.fmt) (h : storePixel s (d.pixelAddr k) px = .next t) : Effect i s t := by
  obtain ⟨ha, rfl⟩ := storePixel_next h
  exact .store hi d hs k hk px hp (hp ▸ ha)

theorem Effect.of_draw {i : Instr} {s t : State} {d : Surface} {x y : Int} {px : Pixel} (hi : i.StoresPixels) (hs : s.surface = some d)
    (hp : px.fmt = d.fmt) (h : drawPixel .strict d x y px s = .next t) : Effect i s t := by
  rcases drawPixel_next h with ⟨hb, h⟩ | ⟨_, rfl⟩
  · exact .of_store hi hs (offset_lt_count hb) hp h
  · exact .answer hi.mayAnswerOnly _ _

theorem Effect.of_query {i : Instr} {p : Operands} {s t : State} {answer : Surface → Word}
    (hi : i.MayAnswerOnly) (h : queryDescriptor p s answer = .next t) : Effect i s t :=
  .of_check h fun h => .of_surface h fun _ _ h => .of_respond hi h

theorem Effect.of_locate {i : Instr} {policy : BoundsPolicy} {p : Operands} {s t : State}
    {answer : Surface → Int → Int → Word} (hi : i.MayAnswerOnly) (h : locatePoint policy p s answer = .next t) : Effect i s t :=
  .of_check h fun h => .of_surface h fun _ _ h => by
    split at h <;> exact .of_respond hi h

theorem Effect.of_set {p : Operands} {s t : State} (h : execSurfSet p s = .next t) : Effect (.surfSet p) s t :=
  .of_check h fun h => by
    split at h
    · rw [raise_next] at h; exact h ▸ .error _ (by decide)
    · rcases setSurface_next h with ⟨_, rfl⟩ | ⟨_, _, rfl⟩ | ⟨h1, h2, rfl⟩
      · exact .error _ (by decide)
      · exact .error _ (by decide)
      · exact .set p rfl ‹_› ⟨h1, h2⟩

/-- Whatever a command does is one of the six effects. -/
theorem exec_effect {i : Instr} {s t : State} (h : exec i s = .next t) : Effect i s t := by
  cases i with
  | surfSet p => exact .of_set h
  | surfClr p =>
    exact .of_check h fun h => .of_surface h fun d hd h => by
      rw [respond_next] at h; exact h ▸ .clear p rfl d hd
  | surfBase p | surfWidth p | surfHeight p | surfCount p | surfAttr p => exact .of_query ⟨fun _ => nofun, fun _ => nofun, fun _ => nofun⟩ h
  | surfOffs p =>
    simp only [exec, execSurfOffs, surfOffsOver] at h
    exact .of_locate ⟨fun _ => nofun, fun _ => nofun, fun _ => nofun⟩ h
  | surfAddr p =>
    simp only [exec, execSurfAddr, surfAddrOver] at h
    exact .of_locate ⟨fun _ => nofun, fun _ => nofun, fun _ => nofun⟩ h
  | surfLoad p =>
    exact .of_check h fun h => .of_surface h fun d hd h => .of_index h fun hk h => by
      obtain ⟨ha, rfl⟩ := loadPixel_next h
      exact .load p rfl d hd _ hk ha
  | drawA p => exact .of_check h fun h => .of_surface h fun d hd h => .of_draw ⟨p, .inl rfl⟩ hd (nativeA_fmt _ _) h
  | drawB p => exact .of_check h fun h => .of_surface h fun d hd h => .of_draw ⟨p, .inr (.inl rfl)⟩ hd (nativeB_fmt _ _) h
  | storeA p =>
    exact .of_check h fun h => .of_surface h fun d hd h => .of_index h fun hk h => .of_store ⟨p, .inr (.inr (.inl rfl))⟩ hd hk (nativeA_fmt _ _) h
  | storeB p =>
    exact .of_check h fun h => .of_surface h fun d hd h => .of_index h fun hk h => .of_store ⟨p, .inr (.inr (.inr rfl))⟩ hd hk (nativeB_fmt _ _) h
  | _ => exact .of_check h fun h => .of_respond ⟨fun _ => nofun, fun _ => nofun, fun _ => nofun⟩ h

end Sys2Proof.Machine
end

