-- ==== Sys2Proof/Laws/PerInstr.lean ====
section
/-! SUPPORT. The family OpcodeMap, one lemma per command: the encoder puts the command's opcode byte and its four operand
words where the decoder reads them (R50, R55). -/

namespace Sys2Proof.Laws

theorem opField_commandWord (op : BitVec 8) (p : Operands) : opField (commandWord op p) = op := by
  unfold opField commandWord
  ext i hi
  simp only [BitVec.getElem_extractLsb', BitVec.getLsbD_cast, BitVec.getLsbD_append]
  grind

theorem operandFields_commandWord (op : BitVec 8) (p : Operands) : operandFields (commandWord op p) = p := by
  obtain ⟨p0, p1, p2, p3⟩ := p
  simp only [operandFields, commandWord, Operands.mk.injEq]
  refine ⟨?_, ?_, ?_, ?_⟩ <;>
    (ext i hi
     simp only [BitVec.getElem_extractLsb', BitVec.getLsbD_cast, BitVec.getLsbD_append]
     grind)

end Sys2Proof.Laws

namespace Sys2Proof.Laws.OpcodeMap

/-- The opcode byte of the encoding is the command's, and its operand words are the command's. -/
def Statement (i : Instr) : Prop := opField (encode i) = opcode i ∧ operandFields (encode i) = operandWords i

theorem packA (p : Operands) : Statement (.packA p) := ⟨opField_commandWord _ _, operandFields_commandWord _ _⟩
theorem packB (p : Operands) : Statement (.packB p) := ⟨opField_commandWord _ _, operandFields_commandWord _ _⟩
theorem chanAR (p : Operands) : Statement (.chanAR p) := ⟨opField_commandWord _ _, operandFields_commandWord _ _⟩
theorem chanAG (p : Operands) : Statement (.chanAG p) := ⟨opField_commandWord _ _, operandFields_commandWord _ _⟩
theorem chanAB (p : Operands) : Statement (.chanAB p) := ⟨opField_commandWord _ _, operandFields_commandWord _ _⟩
theorem chanAA (p : Operands) : Statement (.chanAA p) := ⟨opField_commandWord _ _, operandFields_commandWord _ _⟩
theorem chanBR (p : Operands) : Statement (.chanBR p) := ⟨opField_commandWord _ _, operandFields_commandWord _ _⟩
theorem chanBG (p : Operands) : Statement (.chanBG p) := ⟨opField_commandWord _ _, operandFields_commandWord _ _⟩
theorem chanBB (p : Operands) : Statement (.chanBB p) := ⟨opField_commandWord _ _, operandFields_commandWord _ _⟩
theorem chanBA (p : Operands) : Statement (.chanBA p) := ⟨opField_commandWord _ _, operandFields_commandWord _ _⟩
theorem cvtAB (p : Operands) : Statement (.cvtAB p) := ⟨opField_commandWord _ _, operandFields_commandWord _ _⟩
theorem cvtBA (p : Operands) : Statement (.cvtBA p) := ⟨opField_commandWord _ _, operandFields_commandWord _ _⟩
theorem gammaA (p : Operands) : Statement (.gammaA p) := ⟨opField_commandWord _ _, operandFields_commandWord _ _⟩
theorem gammaB (p : Operands) : Statement (.gammaB p) := ⟨opField_commandWord _ _, operandFields_commandWord _ _⟩
theorem constABlack (p : Operands) : Statement (.constABlack p) := ⟨opField_commandWord _ _, operandFields_commandWord _ _⟩
theorem constARed (p : Operands) : Statement (.constARed p) := ⟨opField_commandWord _ _, operandFields_commandWord _ _⟩
theorem constAGreen (p : Operands) : Statement (.constAGreen p) := ⟨opField_commandWord _ _, operandFields_commandWord _ _⟩
theorem constABlue (p : Operands) : Statement (.constABlue p) := ⟨opField_commandWord _ _, operandFields_commandWord _ _⟩
theorem constAYellow (p : Operands) : Statement (.constAYellow p) := ⟨opField_commandWord _ _, operandFields_commandWord _ _⟩
theorem constAMagenta (p : Operands) : Statement (.constAMagenta p) := ⟨opField_commandWord _ _, operandFields_commandWord _ _⟩
theorem constACyan (p : Operands) : Statement (.constACyan p) := ⟨opField_commandWord _ _, operandFields_commandWord _ _⟩
theorem constAWhite (p : Operands) : Statement (.constAWhite p) := ⟨opField_commandWord _ _, operandFields_commandWord _ _⟩
theorem constBBlack (p : Operands) : Statement (.constBBlack p) := ⟨opField_commandWord _ _, operandFields_commandWord _ _⟩
theorem constBRed (p : Operands) : Statement (.constBRed p) := ⟨opField_commandWord _ _, operandFields_commandWord _ _⟩
theorem constBGreen (p : Operands) : Statement (.constBGreen p) := ⟨opField_commandWord _ _, operandFields_commandWord _ _⟩
theorem constBBlue (p : Operands) : Statement (.constBBlue p) := ⟨opField_commandWord _ _, operandFields_commandWord _ _⟩
theorem constBYellow (p : Operands) : Statement (.constBYellow p) := ⟨opField_commandWord _ _, operandFields_commandWord _ _⟩
theorem constBMagenta (p : Operands) : Statement (.constBMagenta p) := ⟨opField_commandWord _ _, operandFields_commandWord _ _⟩
theorem constBCyan (p : Operands) : Statement (.constBCyan p) := ⟨opField_commandWord _ _, operandFields_commandWord _ _⟩
theorem constBWhite (p : Operands) : Statement (.constBWhite p) := ⟨opField_commandWord _ _, operandFields_commandWord _ _⟩
theorem surfSet (p : Operands) : Statement (.surfSet p) := ⟨opField_commandWord _ _, operandFields_commandWord _ _⟩
theorem surfClr (p : Operands) : Statement (.surfClr p) := ⟨opField_commandWord _ _, operandFields_commandWord _ _⟩
theorem surfBase (p : Operands) : Statement (.surfBase p) := ⟨opField_commandWord _ _, operandFields_commandWord _ _⟩
theorem surfWidth (p : Operands) : Statement (.surfWidth p) := ⟨opField_commandWord _ _, operandFields_commandWord _ _⟩
theorem surfHeight (p : Operands) : Statement (.surfHeight p) := ⟨opField_commandWord _ _, operandFields_commandWord _ _⟩
theorem surfCount (p : Operands) : Statement (.surfCount p) := ⟨opField_commandWord _ _, operandFields_commandWord _ _⟩
theorem surfAttr (p : Operands) : Statement (.surfAttr p) := ⟨opField_commandWord _ _, operandFields_commandWord _ _⟩
theorem surfOffs (p : Operands) : Statement (.surfOffs p) := ⟨opField_commandWord _ _, operandFields_commandWord _ _⟩
theorem surfAddr (p : Operands) : Statement (.surfAddr p) := ⟨opField_commandWord _ _, operandFields_commandWord _ _⟩
theorem surfLoad (p : Operands) : Statement (.surfLoad p) := ⟨opField_commandWord _ _, operandFields_commandWord _ _⟩
theorem drawA (p : Operands) : Statement (.drawA p) := ⟨opField_commandWord _ _, operandFields_commandWord _ _⟩
theorem storeA (p : Operands) : Statement (.storeA p) := ⟨opField_commandWord _ _, operandFields_commandWord _ _⟩
theorem drawB (p : Operands) : Statement (.drawB p) := ⟨opField_commandWord _ _, operandFields_commandWord _ _⟩
theorem storeB (p : Operands) : Statement (.storeB p) := ⟨opField_commandWord _ _, operandFields_commandWord _ _⟩

end Sys2Proof.Laws.OpcodeMap
end

