-- ==== Sys2Proof/Tests/Slice0.lean ====
section
/-! SUPPORT. The model's own tests: words written out from R50 and R55 and from 95_test_vectors.md with the answers that file
gives, the smoke test of the operand check, and for each statement with hypotheses a state and operands that meet them. -/

namespace Sys2Proof.Tests

open Sys2Proof Sys2Proof.Machine

/-! ### Helpers -/

/-- The response that a command leaves on the response port. -/
def respOf : Result → Option Response
  | .next t => t.response
  | .fault _ => none
  | .refused _ => none

/-- The memory that a command leaves. -/
def memOf : Result → Option Memory
  | .next t => some t.mem
  | .fault _ => none
  | .refused _ => none

/-- The descriptor that a command leaves. -/
def surfaceOf : Result → Option (Option Surface)
  | .next t => some t.surface
  | .fault _ => none
  | .refused _ => none

/-- The fault a step stops with. -/
def faultOf : Result → Option Fault
  | .next _ => none
  | .fault f => some f
  | .refused _ => none

/-- The refusal a step stops with. -/
def refusalOf : Result → Option Refusal
  | .next _ => none
  | .fault _ => none
  | .refused r => some r

/-- The 320 by 240 framebuffer of 95_test_vectors.md, Format B at 0x00100000. -/
def fbB : Surface := ⟨0x00100000, 320, 240, .b, .displayFramebuffer⟩

/-- The same surface as a general buffer. -/
def fbGeneral : Surface := ⟨0x00100000, 320, 240, .b, .generalBuffer⟩

/-- The 4 by 2 surface of 95_test_vectors.md, Format A at 0x00001000. -/
def quadA : Surface := ⟨0x00001000, 4, 2, .a, .generalBuffer⟩

/-- A block that holds a surface. -/
def holding (d : Surface) : State := { State.reset with surface := some d }

/-- A block that holds a surface and whose memory lists these bytes. -/
def holdingOver (d : Surface) (m : Memory) : State := { State.reset with surface := some d, mem := m }

/-- The answer to an encoded command. -/
def answer (s : State) (w : Command) : Option Response := respOf (executeCommand w s)

/-! ### Decoding: each word is written out from R50 and R55 (95_test_vectors.md) -/

theorem test_decode_pack :
    decode 0x00000000C8000000640000003200000082#136 = .ok (.packA ⟨0xC8, 0x64, 0x32, 0x82⟩) ∧
    decode 0x08000000190000000C0000000600000001#136 = .ok (.packB ⟨0x19, 0xC, 0x6, 0x1⟩) := by
  refine ⟨?_, ?_⟩ <;> rfl

theorem test_decode_chan :
    decode 0x10C8643282000000000000000000000000#136 = .ok (.chanAR ⟨0xC8643282, 0x0, 0x0, 0x0⟩) ∧
    decode 0x11C8643282000000000000000000000000#136 = .ok (.chanAG ⟨0xC8643282, 0x0, 0x0, 0x0⟩) ∧
    decode 0x12C8643282000000000000000000000000#136 = .ok (.chanAB ⟨0xC8643282, 0x0, 0x0, 0x0⟩) ∧
    decode 0x13C8643282000000000000000000000000#136 = .ok (.chanAA ⟨0xC8643282, 0x0, 0x0, 0x0⟩) ∧
    decode 0x180000CB0D000000000000000000000000#136 = .ok (.chanBR ⟨0xCB0D, 0x0, 0x0, 0x0⟩) ∧
    decode 0x190000CB0D000000000000000000000000#136 = .ok (.chanBG ⟨0xCB0D, 0x0, 0x0, 0x0⟩) ∧
    decode 0x1A0000CB0D000000000000000000000000#136 = .ok (.chanBB ⟨0xCB0D, 0x0, 0x0, 0x0⟩) ∧
    decode 0x1B0000CB0D000000000000000000000000#136 = .ok (.chanBA ⟨0xCB0D, 0x0, 0x0, 0x0⟩) := by
  refine ⟨?_, ?_, ?_, ?_, ?_, ?_, ?_, ?_⟩ <;> rfl

theorem test_decode_cvt :
    decode 0x20DEADBEEF000000000000000000000000#136 = .ok (.cvtAB ⟨0xDEADBEEF, 0x0, 0x0, 0x0⟩) ∧
    decode 0x280000AAAA000000000000000000000000#136 = .ok (.cvtBA ⟨0xAAAA, 0x0, 0x0, 0x0⟩) := by
  refine ⟨?_, ?_⟩ <;> rfl

theorem test_decode_gamma :
    decode 0x30000000C8000000800000001000000082#136 = .ok (.gammaA ⟨0xC8, 0x80, 0x10, 0x82⟩) ∧
    decode 0x380000001F000000100000000F00000001#136 = .ok (.gammaB ⟨0x1F, 0x10, 0xF, 0x1⟩) := by
  refine ⟨?_, ?_⟩ <;> rfl

theorem test_decode_const_a :
    decode 0x4000000000000000000000000000000000#136 = .ok (.constABlack ⟨0x0, 0x0, 0x0, 0x0⟩) ∧
    decode 0x4100000000000000000000000000000000#136 = .ok (.constARed ⟨0x0, 0x0, 0x0, 0x0⟩) ∧
    decode 0x4200000000000000000000000000000000#136 = .ok (.constAGreen ⟨0x0, 0x0, 0x0, 0x0⟩) ∧
    decode 0x4300000000000000000000000000000000#136 = .ok (.constABlue ⟨0x0, 0x0, 0x0, 0x0⟩) ∧
    decode 0x4400000000000000000000000000000000#136 = .ok (.constAYellow ⟨0x0, 0x0, 0x0, 0x0⟩) ∧
    decode 0x4500000000000000000000000000000000#136 = .ok (.constAMagenta ⟨0x0, 0x0, 0x0, 0x0⟩) ∧
    decode 0x4600000000000000000000000000000000#136 = .ok (.constACyan ⟨0x0, 0x0, 0x0, 0x0⟩) ∧
    decode 0x4700000000000000000000000000000000#136 = .ok (.constAWhite ⟨0x0, 0x0, 0x0, 0x0⟩) := by
  refine ⟨?_, ?_, ?_, ?_, ?_, ?_, ?_, ?_⟩ <;> rfl

theorem test_decode_const_b :
    decode 0x4800000000000000000000000000000000#136 = .ok (.constBBlack ⟨0x0, 0x0, 0x0, 0x0⟩) ∧
    decode 0x4900000000000000000000000000000000#136 = .ok (.constBRed ⟨0x0, 0x0, 0x0, 0x0⟩) ∧
    decode 0x4A00000000000000000000000000000000#136 = .ok (.constBGreen ⟨0x0, 0x0, 0x0, 0x0⟩) ∧
    decode 0x4B00000000000000000000000000000000#136 = .ok (.constBBlue ⟨0x0, 0x0, 0x0, 0x0⟩) ∧
    decode 0x4C00000000000000000000000000000000#136 = .ok (.constBYellow ⟨0x0, 0x0, 0x0, 0x0⟩) ∧
    decode 0x4D00000000000000000000000000000000#136 = .ok (.constBMagenta ⟨0x0, 0x0, 0x0, 0x0⟩) ∧
    decode 0x4E00000000000000000000000000000000#136 = .ok (.constBCyan ⟨0x0, 0x0, 0x0, 0x0⟩) ∧
    decode 0x4F00000000000000000000000000000000#136 = .ok (.constBWhite ⟨0x0, 0x0, 0x0, 0x0⟩) := by
  refine ⟨?_, ?_, ?_, ?_, ?_, ?_, ?_, ?_⟩ <;> rfl

theorem test_decode_surf :
    decode 0x500010000000F001400000000300000000#136 = .ok (.surfSet ⟨0x100000, 0xF00140, 0x3, 0x0⟩) ∧
    decode 0x5100000000000000000000000000000000#136 = .ok (.surfClr ⟨0x0, 0x0, 0x0, 0x0⟩) ∧
    decode 0x5200000000000000000000000000000000#136 = .ok (.surfBase ⟨0x0, 0x0, 0x0, 0x0⟩) ∧
    decode 0x5300000000000000000000000000000000#136 = .ok (.surfWidth ⟨0x0, 0x0, 0x0, 0x0⟩) ∧
    decode 0x5400000000000000000000000000000000#136 = .ok (.surfHeight ⟨0x0, 0x0, 0x0, 0x0⟩) ∧
    decode 0x5500000000000000000000000000000000#136 = .ok (.surfCount ⟨0x0, 0x0, 0x0, 0x0⟩) ∧
    decode 0x5600000000000000000000000000000000#136 = .ok (.surfAttr ⟨0x0, 0x0, 0x0, 0x0⟩) ∧
    decode 0x57FFFFFFFF000000000000000000000000#136 = .ok (.surfOffs ⟨0xFFFFFFFF, 0x0, 0x0, 0x0⟩) ∧
    decode 0x580000013F000000EF0000000000000000#136 = .ok (.surfAddr ⟨0x13F, 0xEF, 0x0, 0x0⟩) ∧
    decode 0x59FFFFFFFF000000000000000000000000#136 = .ok (.surfLoad ⟨0xFFFFFFFF, 0x0, 0x0, 0x0⟩) := by
  refine ⟨?_, ?_, ?_, ?_, ?_, ?_, ?_, ?_, ?_, ?_⟩ <;> rfl

theorem test_decode_pix :
    decode 0x600000000500000002C864327F00000000#136 = .ok (.drawA ⟨0x5, 0x2, 0xC864327F, 0x0⟩) ∧
    decode 0x6100000007123456780000000000000000#136 = .ok (.storeA ⟨0x7, 0x12345678, 0x0, 0x0⟩) ∧
    decode 0x6800000001000000010000CB0D00000000#136 = .ok (.drawB ⟨0x1, 0x1, 0xCB0D, 0x0⟩) ∧
    decode 0x6900012BFF000007C10000000000000000#136 = .ok (.storeB ⟨0x12BFF, 0x7C1, 0x0, 0x0⟩) := by
  refine ⟨?_, ?_, ?_, ?_⟩ <;> rfl

/-- One byte of each row of R58, and what the block answers (95_test_vectors.md, P3 steps 16 and 19). -/
theorem test_decode_reserved :
    decode 0x0100000001000000000000000000000000#136 = .error .packSelector ∧
    decode 0x1400000001000000000000000000000000#136 = .error .chanSelector ∧
    decode 0x2F00000001000000000000000000000000#136 = .error .cvtSelector ∧
    decode 0x3100000001000000000000000000000000#136 = .error .gammaSelector ∧
    decode 0x5A00000001000000000000000000000000#136 = .error .surfFunction ∧
    decode 0x6F00000001000000000000000000000000#136 = .error .pixSelector ∧
    decode 0x7000000001000000000000000000000000#136 = .error .family ∧
    decode 0xFF00000001000000000000000000000000#136 = .error .family := by
  refine ⟨?_, ?_, ?_, ?_, ?_, ?_, ?_, ?_⟩ <;> rfl

theorem test_reserved_answers_illegal : answer (holding quadA) 0x7000000001000000000000000000000000#136 = some ⟨.errIllegal, false, 0⟩ := by decide

/-- The encoder writes the word of 95_test_vectors.md, P1 step 1. -/
theorem test_encode_surfSet : encode (.surfSet ⟨0x00100000, 0x00F00140, 3, 0⟩) = 0x500010000000F001400000000300000000#136 := by decide

theorem test_decodeTableWord : decodeTableWord 136 0x1B0000CB0D000000000000000000000000 = some (.chanBA ⟨0xCB0D, 0, 0, 0⟩) := by
  rfl

/-- The decoder reads the opcode byte alone: a word whose operand words are not numbered decodes the same. -/
theorem test_decodeTableWord_operands : decodeTableWord 136 (0x59 * 2 ^ 128 + 1) = some (.surfLoad ⟨0, 0, 0, 1⟩) := by rfl

theorem test_withFetchWord_runs : respOf (step (State.reset.withFetchWord 136 0x1B0000CB0D000000000000000000000000)) =
    some ⟨.ok, false, 1⟩ := by decide

theorem test_withFetchWord_refused_operands : respOf (step (State.reset.withFetchWord 136 0x4100000000000000000000000000000001)) =
    some ⟨.errOperand, false, 0⟩ := by decide

/-! ### The operand check (R57): for each operand format a command with one bit outside it, and the same without -/

theorem test_wellFormed_n0 : (Instr.constARed ⟨0x0, 0x0, 0x0, 0x1⟩).wellFormed = false ∧ (Instr.constARed ⟨0x0, 0x0, 0x0, 0x0⟩).wellFormed = true := by decide
theorem test_wellFormed_ch8 : (Instr.packA ⟨0x100, 0x0, 0x0, 0x0⟩).wellFormed = false ∧ (Instr.packA ⟨0xFF, 0xFF, 0xFF, 0xFF⟩).wellFormed = true := by decide
theorem test_wellFormed_ch5 : (Instr.packB ⟨0x0, 0x0, 0x0, 0x2⟩).wellFormed = false ∧ (Instr.packB ⟨0x1F, 0x1F, 0x1F, 0x1⟩).wellFormed = true := by decide
theorem test_wellFormed_w32 : (Instr.cvtAB ⟨0xFFFFFFFF, 0x0, 0x80000000, 0x0⟩).wellFormed = false ∧ (Instr.cvtAB ⟨0xFFFFFFFF, 0x0, 0x0, 0x0⟩).wellFormed = true := by decide
theorem test_wellFormed_w16 : (Instr.cvtBA ⟨0x1FFFF, 0x0, 0x0, 0x0⟩).wellFormed = false ∧ (Instr.cvtBA ⟨0xFFFF, 0x0, 0x0, 0x0⟩).wellFormed = true := by decide
theorem test_wellFormed_set : (Instr.surfSet ⟨0x3000, 0x10001, 0x4, 0x0⟩).wellFormed = false ∧ (Instr.surfSet ⟨0xFFFFFFFF, 0xFFFFFFFF, 0x3, 0x0⟩).wellFormed = true := by decide
theorem test_wellFormed_xy : (Instr.surfOffs ⟨0x5, 0x2, 0x1, 0x0⟩).wellFormed = false ∧ (Instr.surfOffs ⟨0xFFFFFFFF, 0xFFFFFFFF, 0x0, 0x0⟩).wellFormed = true := by decide
theorem test_wellFormed_idx : (Instr.surfLoad ⟨0x0, 0x1, 0x0, 0x0⟩).wellFormed = false ∧ (Instr.surfLoad ⟨0xFFFFFFFF, 0x0, 0x0, 0x0⟩).wellFormed = true := by decide
theorem test_wellFormed_xyc32 : (Instr.drawA ⟨0x0, 0x0, 0x0, 0x1⟩).wellFormed = false ∧ (Instr.drawA ⟨0xFFFFFFFF, 0xFFFFFFFF, 0xFFFFFFFF, 0x0⟩).wellFormed = true := by decide
theorem test_wellFormed_xyc16 : (Instr.drawB ⟨0x0, 0x0, 0x1F801, 0x0⟩).wellFormed = false ∧ (Instr.drawB ⟨0xFFFFFFFF, 0xFFFFFFFF, 0xFFFF, 0x0⟩).wellFormed = true := by decide
theorem test_wellFormed_idxc32 : (Instr.storeA ⟨0x0, 0x0, 0x1, 0x0⟩).wellFormed = false ∧ (Instr.storeA ⟨0xFFFFFFFF, 0xFFFFFFFF, 0x0, 0x0⟩).wellFormed = true := by decide
theorem test_wellFormed_idxc16 : (Instr.storeB ⟨0x0, 0x10000, 0x0, 0x0⟩).wellFormed = false ∧ (Instr.storeB ⟨0xFFFFFFFF, 0xFFFF, 0x0, 0x0⟩).wellFormed = true := by decide

/-! ### One step of each command (95_test_vectors.md) -/

theorem test_packA : answer State.reset 0x00000000C8000000640000003200000082#136
    = some ⟨.ok, false, 0xC8643282⟩ := by decide
theorem test_packA_range : answer State.reset 0x0000000100000000000000000000000000#136
    = some ⟨.errOperand, false, 0x0⟩ := by decide
theorem test_packB : answer State.reset 0x08000000190000000C0000000600000001#136 = some ⟨.ok, false, 0xCB0D⟩ := by decide
theorem test_packB_range : answer State.reset 0x0800000000000000200000000000000000#136
    = some ⟨.errOperand, false, 0x0⟩ := by decide
theorem test_chanAR : answer State.reset 0x10C8643282000000000000000000000000#136 = some ⟨.ok, false, 0xC8⟩ := by decide
theorem test_chanAR_unused : answer State.reset 0x10C8643282000000010000000000000000#136
    = some ⟨.errOperand, false, 0x0⟩ := by decide
theorem test_chanAG : answer State.reset 0x11C8643282000000000000000000000000#136 = some ⟨.ok, false, 0x64⟩ := by decide
theorem test_chanAB : answer State.reset 0x12C8643282000000000000000000000000#136 = some ⟨.ok, false, 0x32⟩ := by decide
theorem test_chanAA : answer State.reset 0x13C8643282000000000000000000000000#136 = some ⟨.ok, false, 0x82⟩ := by decide
theorem test_chanBR : answer State.reset 0x180000CB0D000000000000000000000000#136 = some ⟨.ok, false, 0x19⟩ := by decide
theorem test_chanBR_high : answer State.reset 0x180001CB0D000000000000000000000000#136
    = some ⟨.errOperand, false, 0x0⟩ := by decide
theorem test_chanBG : answer State.reset 0x19000007C0000000000000000000000000#136 = some ⟨.ok, false, 0x1F⟩ := by decide
theorem test_chanBB : answer State.reset 0x1A0000007F000000000000000000000000#136 = some ⟨.ok, false, 0x1F⟩ := by decide
theorem test_chanBA : answer State.reset 0x1B0000FFFE000000000000000000000000#136 = some ⟨.ok, false, 0x0⟩ := by decide
theorem test_cvtAB : answer State.reset 0x20C864327F000000000000000000000000#136 = some ⟨.ok, false, 0xCB0C⟩ := by decide
theorem test_cvtAB_mixed : answer State.reset 0x20DEADBEEF000000000000000000000000#136
    = some ⟨.ok, false, 0xDD6F⟩ := by decide
theorem test_cvtBA : answer State.reset 0x280000CB0D000000000000000000000000#136
    = some ⟨.ok, false, 0xCE6331FF⟩ := by decide
theorem test_cvtBA_mixed : answer State.reset 0x280000AAAA000000000000000000000000#136
    = some ⟨.ok, false, 0xAD52AD00⟩ := by decide
theorem test_constABlack : answer State.reset 0x4000000000000000000000000000000000#136
    = some ⟨.ok, false, 0xFF⟩ := by decide
theorem test_constARed : answer State.reset 0x4100000000000000000000000000000000#136
    = some ⟨.ok, false, 0xFF0000FF⟩ := by decide
theorem test_constAGreen : answer State.reset 0x4200000000000000000000000000000000#136
    = some ⟨.ok, false, 0xFF00FF⟩ := by decide
theorem test_constABlue : answer State.reset 0x4300000000000000000000000000000000#136
    = some ⟨.ok, false, 0xFFFF⟩ := by decide
theorem test_constAYellow : answer State.reset 0x4400000000000000000000000000000000#136
    = some ⟨.ok, false, 0xFFFF00FF⟩ := by decide
theorem test_constAMagenta : answer State.reset 0x4500000000000000000000000000000000#136
    = some ⟨.ok, false, 0xFF00FFFF⟩ := by decide
theorem test_constACyan : answer State.reset 0x4600000000000000000000000000000000#136
    = some ⟨.ok, false, 0xFFFFFF⟩ := by decide
theorem test_constAWhite : answer State.reset 0x4700000000000000000000000000000000#136
    = some ⟨.ok, false, 0xFFFFFFFF⟩ := by decide
theorem test_constBBlack : answer State.reset 0x4800000000000000000000000000000000#136
    = some ⟨.ok, false, 0x1⟩ := by decide
theorem test_constBRed : answer State.reset 0x4900000000000000000000000000000000#136
    = some ⟨.ok, false, 0xF801⟩ := by decide
theorem test_constBGreen : answer State.reset 0x4A00000000000000000000000000000000#136
    = some ⟨.ok, false, 0x7C1⟩ := by decide
theorem test_constBBlue : answer State.reset 0x4B00000000000000000000000000000000#136
    = some ⟨.ok, false, 0x3F⟩ := by decide
theorem test_constBYellow : answer State.reset 0x4C00000000000000000000000000000000#136
    = some ⟨.ok, false, 0xFFC1⟩ := by decide
theorem test_constBMagenta : answer State.reset 0x4D00000000000000000000000000000000#136
    = some ⟨.ok, false, 0xF83F⟩ := by decide
theorem test_constBCyan : answer State.reset 0x4E00000000000000000000000000000000#136
    = some ⟨.ok, false, 0x7FF⟩ := by decide
theorem test_constBWhite : answer State.reset 0x4F00000000000000000000000000000000#136
    = some ⟨.ok, false, 0xFFFF⟩ := by decide
theorem test_surfBase : answer (holding fbB) 0x5200000000000000000000000000000000#136
    = some ⟨.ok, false, 0x100000⟩ := by decide
theorem test_surfBase_none : answer State.reset 0x5200000000000000000000000000000000#136
    = some ⟨.errNosurf, false, 0x0⟩ := by decide
theorem test_surfWidth : answer (holding fbB) 0x5300000000000000000000000000000000#136
    = some ⟨.ok, false, 0x140⟩ := by decide
theorem test_surfHeight : answer (holding fbB) 0x5400000000000000000000000000000000#136
    = some ⟨.ok, false, 0xF0⟩ := by decide
theorem test_surfCount : answer (holding fbB) 0x5500000000000000000000000000000000#136
    = some ⟨.ok, false, 0x12C00⟩ := by decide
theorem test_surfCount_max : answer (holding ⟨0, 65535, 65535, .b, .generalBuffer⟩) 0x5500000000000000000000000000000000#136
    = some ⟨.ok, false, 0xFFFE0001⟩ := by decide
theorem test_surfAttr : answer (holding fbB) 0x5600000000000000000000000000000000#136 = some ⟨.ok, false, 0x3⟩ := by decide
theorem test_surfOffs : answer (holding fbB) 0x570000013F000000EF0000000000000000#136
    = some ⟨.ok, true, 0x12BFF⟩ := by decide
theorem test_surfOffs_miss : answer (holding fbB) 0x57FFFFFFFF000000000000000000000000#136
    = some ⟨.ok, false, 0x0⟩ := by decide
theorem test_surfAddr : answer (holding fbB) 0x5800000005000000020000000000000000#136
    = some ⟨.ok, true, 0x10050A⟩ := by decide
theorem test_surfAddr_top : answer (holding ⟨0xFFFFFFF0, 2, 2, .a, .generalBuffer⟩) 0x5800000001000000010000000000000000#136
    = some ⟨.ok, true, 0xFFFFFFFC⟩ := by decide
theorem test_surfLoad_index : answer (holding quadA) 0x59FFFFFFFF000000000000000000000000#136
    = some ⟨.errIndex, false, 0x0⟩ := by decide
theorem test_surfLoad : answer (holdingOver quadA [(0x1014, 0xCE), (0x1015, 0x63), (0x1016, 0x31), (0x1017, 0xFF)]) 0x5900000005000000000000000000000000#136
    = some ⟨.ok, false, 0xCE6331FF⟩ := by decide
theorem test_surfSet_busy : answer (holding quadA) 0x5000002000000100010000000100000000#136
    = some ⟨.errBusy, false, 0x0⟩ := by decide
theorem test_surfSet_operand : answer (holding quadA) 0x5000003000000100010000000400000000#136
    = some ⟨.errOperand, false, 0x0⟩ := by decide
theorem test_surfClr_none : answer State.reset 0x5100000000000000000000000000000000#136
    = some ⟨.errNosurf, false, 0x0⟩ := by decide
theorem test_storeA_index : answer (holding quadA) 0x6100000008000000000000000000000000#136
    = some ⟨.errIndex, false, 0x0⟩ := by decide
theorem test_storeB_none : answer State.reset 0x6900000000000000000000000000000000#136
    = some ⟨.errNosurf, false, 0x0⟩ := by decide
theorem test_drawA_none : answer State.reset 0x6000000000000000000000000000000000#136
    = some ⟨.errNosurf, false, 0x0⟩ := by decide
theorem test_drawB_operand : answer (holding fbB) 0x6800000000000000000001F80100000000#136
    = some ⟨.errOperand, false, 0x0⟩ := by decide

/-! Stores: the bytes memory lists afterwards. -/

theorem test_drawA_mem : memOf (executeCommand 0x600000000500000002C864327F00000000#136 (holding fbB)) =
    some [(0x10050A, 0xCB), (0x10050B, 0x0C)] := by decide
theorem test_drawB_mem : memOf (executeCommand 0x6800000001000000010000CB0D00000000#136 (holding quadA)) =
    some [(0x1014, 0xCE), (0x1015, 0x63), (0x1016, 0x31), (0x1017, 0xFF)] := by decide
theorem test_storeA_mem : memOf (executeCommand 0x6100000007123456780000000000000000#136 (holding quadA)) =
    some [(0x101C, 0x12), (0x101D, 0x34), (0x101E, 0x56), (0x101F, 0x78)] := by decide
theorem test_storeB_mem : memOf (executeCommand 0x6900012BFF000007C10000000000000000#136 (holding fbB)) =
    some [(0x1257FE, 0x07), (0x1257FF, 0xC1)] := by decide
theorem test_drawA_miss : memOf (executeCommand 0x6000000140000000F0FFFFFFFF00000000#136 (holding fbB)) =
    some [] := by decide

/-! `SURF.SET` and `SURF.CLR`. -/

theorem test_surfSet : surfaceOf (execSurfSet ⟨0x1000, 0x00020004, 0, 0⟩ State.reset) = some (some quadA) := by decide
theorem test_surfSet_display : surfaceOf (surfSetOver (2 ^ 20) ⟨0x00100000, 0x00F00140, 3, 0⟩ State.reset) = some (some fbB) := by
  decide
theorem test_surfSet_display_align :
    respOf (surfSetOver (2 ^ 20) ⟨0x00100010, 0x00020004, 3, 0⟩ State.reset) = some ⟨.errAlign, false, 0⟩ := by decide
theorem test_surfSet_range : answer State.reset 0x50FFFFFFF0000200030000000000000000#136 = some ⟨.errRange, false, 0⟩ := by decide
theorem test_surfSet_top : answer State.reset 0x50FFFFFFF0000200020000000000000000#136 = some ⟨.ok, false, 0⟩ := by decide
theorem test_surfClr : surfaceOf (executeCommand 0x5100000000000000000000000000000000#136 (holding quadA)) = some none := by decide

/-! The open parameters (R5): the two named gamma candidates of R100, and `BoundsPolicy` `Inclusive`. -/

/-- `GammaDivMax`, Format A. -/
def divMax8 (c : Byte) : Byte := BitVec.ofNat 8 (c.toNat * c.toNat / 255)
/-- `GammaDivMax`, Format B. -/
def divMax5 (c : BitVec 5) : BitVec 5 := BitVec.ofNat 5 (c.toNat * c.toNat / 31)
/-- `GammaShift`, Format A. -/
def shift8 (c : Byte) : Byte := BitVec.ofNat 8 (c.toNat * c.toNat / 2 ^ 8)
/-- `GammaShift`, Format B. -/
def shift5 (c : BitVec 5) : BitVec 5 := BitVec.ofNat 5 (c.toNat * c.toNat / 2 ^ 5)

theorem test_gammaA_divMax : respOf (gammaOverA divMax8 ⟨254, 127, 15, 0⟩ State.reset) = some ⟨.ok, false, 0xFD3F0000⟩ := by decide
theorem test_gammaA_shift : respOf (gammaOverA shift8 ⟨255, 255, 255, 255⟩ State.reset) = some ⟨.ok, false, 0xFEFEFEFF⟩ := by decide
theorem test_gammaB_divMax : respOf (gammaOverB divMax5 ⟨31, 16, 15, 1⟩ State.reset) = some ⟨.ok, false, 0x0000FA0F⟩ := by decide
theorem test_gammaB_shift : respOf (gammaOverB shift5 ⟨31, 16, 15, 1⟩ State.reset) = some ⟨.ok, false, 0x0000F20F⟩ := by decide
theorem test_gammaA_operand : answer State.reset 0x3000000100000000000000000000000000#136 = some ⟨.errOperand, false, 0⟩ := by decide
theorem test_inclusive_offs : respOf (surfOffsOver .inclusive ⟨320, 240, 0, 0⟩ (holding fbB)) = some ⟨.ok, true, 0x00012D40⟩ := by decide
theorem test_inclusive_wraps : respOf (surfAddrOver .inclusive ⟨2, 2, 0, 0⟩ (holding ⟨0xFFFFFFF0, 2, 2, .a, .generalBuffer⟩)) =
    some ⟨.ok, true, 0x00000008⟩ := by decide
theorem test_inclusive_draw : memOf (drawOverA .inclusive ⟨320, 240, 0xFFFFFFFF, 0⟩ (holding fbB)) =
    some [(0x125A80, 0xFF), (0x125A81, 0xFF)] := by decide
theorem test_inclusive_miss : respOf (surfOffsOver .inclusive ⟨321, 0, 0, 0⟩ (holding fbB)) = some ⟨.ok, false, 0⟩ := by decide

/-! Ports, reset and the pseudo-commands. -/

/-- P5: reset forgets the surface and leaves memory. -/
theorem test_reset_step : (surfaceOf (step { holdingOver quadA [(0x1000, 0xC8)] with inputs := [.cycle ⟨true, none, false⟩] }),
    memOf (step { holdingOver quadA [(0x1000, 0xC8)] with inputs := [.cycle ⟨true, none, false⟩] })) =
    (some none, some [(0x1000, 0xC8)]) := by decide

/-- `GETPIXEL` of a pixel that is listed, and of a point that misses (R62). -/
theorem test_getPixel : respOf (getPixel 1 1 (holdingOver quadA [(0x1014, 0xCE), (0x1015, 0x63), (0x1016, 0x31), (0x1017, 0xFF)])) =
    some ⟨.ok, false, 0xCE6331FF⟩ := by decide
theorem test_getPixel_miss : respOf (getPixel 4 0 (holding quadA)) = some ⟨.ok, false, 0⟩ := by decide

/-- `CREATE` packs its dimensions and attributes as R61 says. -/
theorem test_create : createCommand 0x00100000 320 240 .b .displayFramebuffer = .surfSet ⟨0x00100000, 0x00F00140, 3, 0⟩ := by
  decide

/-! ### Witnesses: for each statement with hypotheses, a state and operands that meet them, at the ends of their ranges -/

/-- Input pins with `rst` low that offer a command. -/
def offering (w : Command) : Pins := { rst := false, cmd := some w, rspReady := false }
/-- Input pins with `rst` low that take a response. -/
def taking : Pins := { rst := false, cmd := none, rspReady := true }
/-- Input pins with `rst` high. -/
def resetting : Pins := { rst := true, cmd := none, rspReady := false }
/-- The word of `STORE.A 7, 0x12345678`. -/
def storeWord : Command := 0x6100000007123456780000000000000000#136
/-- A descriptor that breaks R13 and that no run reaches. -/
def crooked : Surface := ⟨0x1002, 4, 2, .a, .generalBuffer⟩
/-- The 2 by 2 surface that ends at the top of the address space. -/
def topA : Surface := ⟨0xFFFFFFF0, 2, 2, .a, .generalBuffer⟩

theorem quadA_legal : quadA.Legal := by decide
theorem topA_legal : topA.Legal := by decide
theorem fbGeneral_legal : fbGeneral.Legal := by decide

theorem holding_inv {d : Surface} (h : d.Legal) (p : Phase) (l : List Input) (hp : ∀ r, p = .responding r → r.Legal) :
    State.Inv { holding d with phase := p, inputs := l } :=
  ⟨rfl, fun _ e => Option.some.inj e ▸ h, hp, fun _ _ => rfl, Nat.zero_le 1, fun _ ha => absurd ha (List.not_mem_nil)⟩

/-- `ReservedOpcodesOnlyRespondIllegal`: both ends of every range of R58, and a word with such a byte. -/
theorem witness_reserved :
    (∀ op ∈ [0x01, 0x07, 0x09, 0x0F], reservedRow .packSelector op) ∧
    (∀ op ∈ [0x14, 0x17, 0x1C, 0x1F], reservedRow .chanSelector op) ∧
    (∀ op ∈ [0x21, 0x27, 0x29, 0x2F], reservedRow .cvtSelector op) ∧
    (∀ op ∈ [0x31, 0x37, 0x39, 0x3F], reservedRow .gammaSelector op) ∧
    (∀ op ∈ [0x5A, 0x5F], reservedRow .surfFunction op) ∧
    (∀ op ∈ [0x62, 0x67, 0x6A, 0x6F], reservedRow .pixSelector op) ∧
    (∀ op ∈ [0x70, 0xFF], reservedRow .family op) ∧
    reservedByte ((0x5A00000000000000000000000000000000#136).toNat / 2 ^ 128) := by
  simp only [reservedRow]; decide

/-- `OperandCheckComesFirst`: a bit outside in each of the four words, and none. -/
theorem witness_operand_check :
    (0x1#32 &&& ~~~(formatMask (instrFormat (.constARed ⟨1, 0, 0, 0⟩))).p0 ≠ 0) ∧
    (0x80000000#32 &&& ~~~(formatMask (instrFormat (.packA ⟨0, 0x80000000, 0, 0⟩))).p1 ≠ 0) ∧
    (0x4#32 &&& ~~~(formatMask (instrFormat (.surfSet ⟨0, 0, 4, 0⟩))).p2 ≠ 0) ∧
    (0x2#32 &&& ~~~(formatMask (instrFormat (.packB ⟨0, 0, 0, 2⟩))).p3 ≠ 0) ∧
    (respOf (exec (.packB ⟨31, 31, 31, 1⟩) State.reset)).isSome = true := by decide

/-- `EncodeInvertsDecode`, `StepRunsTheDecodedCommand`: a word that decodes. -/
theorem witness_decodes : decode storeWord = .ok (.storeA ⟨7, 0x12345678, 0, 0⟩) := by rfl

/-- The operand ranges of the colour statements, at and beyond their last value. -/
theorem witness_colour_ranges :
    (255#32).toNat < 256 ∧ ¬ (256#32).toNat < 256 ∧ (31#32).toNat < 32 ∧ ¬ (32#32).toNat < 32 ∧
    (1#32).toNat < 2 ∧ ¬ (2#32).toNat < 2 ∧ (0xFFFF#32).toNat < 2 ^ 16 ∧ ¬ (0x10000#32).toNat < 2 ^ 16 ∧
    noOperands = ⟨0, 0, 0, 0⟩ ∧ (⟨0, 0, 0, 1⟩ : Operands) ≠ ⟨0, 0, 0, 0⟩ := by decide

/-- `ColourCommandsArePure`, `ColourCommandsNeedNoSurfaceOthersButSetDo`: the last colour command, the first and the last of
the others, in format, and a state without a surface. -/
theorem witness_colour : isColour (.constBWhite noOperands) = true ∧ isColour (.surfClr noOperands) = false ∧
    (Instr.constBWhite noOperands).wellFormed = true ∧ (Instr.storeB noOperands).wellFormed = true ∧
    isColour (.storeB noOperands) = false ∧ (∀ p, Instr.storeB noOperands ≠ .surfSet p) ∧ State.reset.surface = none :=
  ⟨by decide, by decide, by decide, by decide, by decide, fun _ => nofun, rfl⟩

/-- `SurfSetChecksThenWritesTheDescriptor`: operands that meet the hypotheses, for each outcome: out of format, busy,
misaligned, one pixel too large, and complete with the last byte of the address space. -/
theorem witness_surfSet :
    (0x00020002#32).toNat = (2#16).toNat * 2 ^ 16 + (2#16).toNat ∧ (0#32).toNat % 4 = 0 + 0 ∧ 4 ≤ (4#32).toNat ∧
    (4#32).toNat % 4 = 0 + 0 ∧ (3#32).toNat % 4 = 2 + 1 ∧ (holding quadA).surface ≠ none ∧ State.reset.surface = none ∧
    (0x1008#32).toNat % max 16 4 ≠ 0 ∧ (0xFFFFFFF0#32).toNat % max 16 4 = 0 ∧
    (0x00020003#32).toNat = (2#16).toNat * 2 ^ 16 + (3#16).toNat ∧
    (0xFFFFFFF0#32).toNat + (3#16).toNat * (2#16).toNat * 4 > 2 ^ 32 ∧
    ¬ (0xFFFFFFF0#32).toNat + (2#16).toNat * (2#16).toNat * 4 > 2 ^ 32 := by decide

/-- `DescriptorIsFixedForItsLifetime`, `SetAndClearAlternate`, `FamiliesTouchOnlyTheirState`, `CommandsPreserveLegalDescriptors`,
`AtMostOneAdmittedAccess`, `OnlyTheListedErrors`: a command that completes on a legal surface, for the clearing, the setting,
the reading and the storing commands. -/
theorem witness_completes :
    (∃ t, exec (.surfClr noOperands) (holding quadA) = .next t ∧ t.phase = .responding ⟨.ok, false, 0⟩) ∧
    (∃ t, exec (.surfSet ⟨0x1000, 0x00020004, 0, 0⟩) State.reset = .next t ∧ t.phase = .responding ⟨.ok, false, 0⟩) ∧
    (∃ t r, exec (.surfLoad ⟨7, 0, 0, 0⟩) (holding quadA) = .next t ∧ t.phase = .responding r) ∧
    (∃ t, exec (.storeA ⟨7, 1, 0, 0⟩) (holding quadA) = .next t ∧ t.phase = .responding ⟨.ok, false, 0⟩) ∧
    (∀ d, (holding quadA).surface = some d → d.Legal) ∧ (describedSurface ⟨0x1000, 0x00020004, 0, 0⟩).Legal ∧
    inFormat .set ⟨0x1000, 0x00020004, 0, 0⟩ = true :=
  ⟨⟨_, rfl, rfl⟩, ⟨_, rfl, rfl⟩, ⟨_, _, rfl, rfl⟩, ⟨_, rfl, rfl⟩, fun _ e => Option.some.inj e ▸ quadA_legal, by decide,
    by decide⟩

/-- `OnlyTheListedErrors`, `ErrorsLeaveNothingBehind`, `FlagAndDataOfResponses`: a command that raises an error, and one that
sets the flag. -/
theorem witness_errors :
    (∃ t, executeCommand 0x5900000008000000000000000000000000#136 (holding quadA) = .next t ∧
      t.phase = .responding ⟨.errIndex, false, 0⟩ ∧ Status.errIndex ≠ .ok) ∧
    (∃ t, exec (.surfOffs ⟨3, 1, 0, 0⟩) (holding quadA) = .next t ∧ t.phase = .responding ⟨.ok, true, 7⟩) ∧
    (Instr.surfOffs ⟨0xFFFFFFFF, 0, 0, 0⟩).wellFormed = true :=
  ⟨⟨_, rfl, rfl, by decide⟩, ⟨_, rfl, rfl⟩, by decide⟩

/-- `BoundsTestOfAPoint`, `OffsetAndAddressOfAHit`, `IndexAddressesAgreeWithPointAddresses`, `InclusiveExtraHits`,
`SurfOffsAnswersTheOffset`, `SurfAddrAnswersTheAddress`: the last hit under each policy, the first miss, the last index, an
empty surface and a surface at the top of the address space. -/
theorem witness_bounds :
    inBounds .strict quadA 3 1 = true ∧ inBounds .strict quadA 4 1 = false ∧ inBounds .inclusive quadA 4 2 = true ∧
    inBounds .inclusive quadA 5 2 = false ∧ 7 < quadA.count ∧ ¬ 8 < quadA.count ∧ inBounds .strict topA 1 1 = true ∧
    (⟨0, 0, 5, .b, .generalBuffer⟩ : Surface).width.toNat = 0 ∧
    inBounds .inclusive ⟨0, 0, 5, .b, .generalBuffer⟩ 0 5 = true ∧
    1 ≤ quadA.width.toNat ∧ (0 : Int) + 2 ≤ quadA.height.toNat ∧ 1 ≤ quadA.height.toNat ∧ (4 : Int) ≤ quadA.width.toNat ∧
    0 ≤ (3#32).toInt ∧ (3#32).toInt < quadA.width.toNat ∧ 0 ≤ (1#32).toInt ∧ (1#32).toInt < quadA.height.toNat ∧
    ¬ 0 ≤ (0xFFFFFFFF#32).toInt ∧ (holding quadA).surface = some quadA ∧ State.reset.surface = none := by decide

/-- `PixelsAreBigEndian`: the last pixel of the address space in each format. -/
theorem witness_pixels : Memory.wf [(0x1000, 0xC8), (0xFFFFFFFF, 1)] = true ∧ 0xFFFFFFFC + 4 ≤ 2 ^ 32 ∧ 0xFFFFFFFE + 2 ≤ 2 ^ 32 := by
  decide

/-- `SurfLoadAnswersThePixel`, `DrawStoresHitsAndDropsMisses`, `StoreWritesTheIndexedPixel`,
`LoadAnswersTheStoredColourInNativeFormat`, `GetPixelAnswersTheDrawnColour`, `DrawPointsContract`: a legal surface of each
format, canonical memory, the last index and one beyond it, the last hit and a miss. -/
theorem witness_pixel_commands :
    (holding topA).surface = some topA ∧ topA.Legal ∧ (holding topA).mem.wf = true ∧
    (holding fbGeneral).surface = some fbGeneral ∧ fbGeneral.Legal ∧
    (3#32).toNat < topA.count ∧ topA.width.toNat * topA.height.toNat ≤ (4#32).toNat ∧
    inBounds .strict topA (1#32).toInt (1#32).toInt = true ∧ ¬ (2#32).toInt < topA.width.toNat ∧
    (0xFFFF#32).toNat < 2 ^ 16 ∧ 2 ^ 16 ≤ (0x10000#32).toNat ∧ (⟨1, 1, 0xFFFF, 0⟩ : Operands).p3 = 0 :=
  ⟨rfl, topA_legal, rfl, rfl, fbGeneral_legal, by decide, by decide, by decide, by decide, by decide, by decide, rfl⟩

/-- `GetPixelAnswersTheDrawnColour`: the draw completes, and there is another pixel. -/
theorem witness_getPixel : (∃ t, exec (.drawA ⟨1, 1, 0xFF0000FF, 0⟩) (holding topA) = .next t) ∧
    2 < topA.count ∧ 2 ≠ topA.offset (1#32).toInt (1#32).toInt := ⟨⟨_, rfl⟩, by decide, by decide⟩

/-- `MisalignedAccessFaults`: a descriptor that breaks R13, and the fault. -/
theorem witness_misaligned : crooked.base.toNat % crooked.psize ≠ 0 ∧ (7#32).toNat < crooked.count ∧
    inBounds .strict crooked (3#32).toInt (1#32).toInt = true ∧
    faultOf (exec (.storeA ⟨7, 0, 0, 0⟩) (holding crooked)) = some .misalignedAccess := by decide

/-- `StepRunsTheDecodedCommand`, `AcceptedCommandResponds`, `ResetAbandonsTheCommandInFlight`: a command in flight, with no
input, with quiet pins, and with `rst` high now or a step later. -/
theorem witness_executing (l : List Input) : State.Inv { holding quadA with phase := .executing storeWord, inputs := l } :=
  holding_inv quadA_legal _ _ nofun

theorem witness_executing_inputs :
    quietPins.rst = false ∧ resetting.rst = true ∧
    (surfaceOf (step { holding quadA with phase := .executing storeWord, inputs := [.cycle resetting] }),
      memOf (step { holding quadA with phase := .executing storeWord, inputs := [.cycle resetting] })) = (some none, some []) ∧
    memOf (step { holding quadA with phase := .executing storeWord, inputs := [.cycle quietPins, .cycle resetting] }) =
      some [(0x101C, 0x12), (0x101D, 0x34), (0x101E, 0x56), (0x101F, 0x78)] := by decide

/-- `HandshakeOfThePorts`, `EachCommandGetsOneResponse`, `FlagAndDataOfResponses`: an idle block to which a command is offered,
and a block whose response is taken. -/
theorem witness_handshake :
    State.Inv { holding quadA with inputs := [.cycle (offering storeWord), .cycle quietPins, .cycle taking] } ∧
    State.Inv { holding quadA with phase := .responding ⟨.errIndex, false, 0⟩, inputs := [.cycle taking] } ∧
    (offering storeWord).rst = false ∧ (offering storeWord).cmd = some storeWord ∧ taking.rst = false ∧
    taking.rspReady = true ∧ quietPins.cmd = none ∧ quietPins.rspReady = false :=
  ⟨holding_inv quadA_legal _ _ nofun,
    holding_inv quadA_legal _ _ (fun _ e => Phase.responding.inj e ▸ fun _ => ⟨rfl, rfl⟩), rfl, rfl, rfl, rfl, rfl, rfl⟩

/-- `ResetClearsValidAndKeepsMemory`, `OnlyClearAndResetRemoveTheSurface`: a step with `rst` high removes the surface, and a
`SURF.CLR` in flight does. -/
theorem witness_removes :
    surfaceOf (step { holding quadA with inputs := [.cycle resetting] }) = some none ∧
    surfaceOf (step { holding quadA with phase := .executing (encode (.surfClr noOperands)) }) = some none := by decide

/-- `OutsideAgentsOnlyTouchMemory`, `NoStepFaultsFromTheInvariant`, `MemoryChangesOnlyByStoresAndTheHost`: the first and the
last byte of a surface, written by the host between commands, and refused while one is in flight. -/
theorem witness_outside :
    memOf (step { holding quadA with inputs := [.hostWrite 0x101F 9] }) = some [(0x101F, 9)] ∧
    memOf (step { holding quadA with inputs := [.scannerRead 0x1000] }) = some [] ∧
    memOf (step { holding quadA with inputs := [.hostRead 0x1000] }) = some [] ∧
    quadA.base.toNat ≤ (0x1000#32).toNat ∧ (0x101F#32).toNat < quadA.base.toNat + quadA.size ∧
    refusalOf (step { holding quadA with phase := .executing storeWord, inputs := [.hostWrite 0x1000 9] }) =
      some .hostAccessInFlight ∧
    refusalOf (step { holding quadA with phase := .executing storeWord, inputs := [.hostRead 0x101F] }) =
      some .hostAccessInFlight ∧
    memOf (step { holding quadA with phase := .executing storeWord, inputs := [.hostWrite 0x1020 9] }) =
      some [(0x1020, 9)] := by decide

/-- A byte of the surface that memory lists. -/
def overByte : State := holdingOver quadA [(0x101F, 1)]

/-- `MemoryChangesOnlyByStoresAndTheHost`: a step of the host that changes a listed byte, and one of a store that does, from
states of the invariant. -/
theorem witness_memory_changes :
    State.Inv { overByte with inputs := [.hostWrite 0x101F 9] } ∧
    State.Inv { overByte with phase := .executing storeWord } ∧
    (memOf (step { overByte with inputs := [.hostWrite 0x101F 9] })).map (readByte · 0x101F) = some 9 ∧
    (memOf (step { overByte with phase := .executing storeWord })).map (readByte · 0x101F) = some 0x78 ∧
    readByte overByte.mem 0x101F = 1 := by
  refine ⟨⟨by decide, fun _ e => Option.some.inj e ▸ quadA_legal, nofun, nofun, Nat.zero_le 1, nofun⟩,
    ⟨by decide, fun _ e => Option.some.inj e ▸ quadA_legal, nofun, fun _ _ => rfl, Nat.zero_le 1, nofun⟩, ?_, ?_, ?_⟩ <;>
    decide

/-- `EveryStepKeepsTheInvariant`: a state of the invariant with a store in flight, and its step. -/
theorem witness_invariant_step : ∃ t, State.Inv { holding quadA with phase := .executing storeWord, inputs := [] } ∧
    step { holding quadA with phase := .executing storeWord, inputs := [] } = .next t ∧ t.bus.length = 1 :=
  ⟨_, witness_executing [], rfl, rfl⟩

end Sys2Proof.Tests
end

section
/-! SUPPORT. What a command keeps: the frame of each effect, the accesses, the descriptor, and the independence of memory. -/

namespace Sys2Proof.Machine

/-! ### What the effects leave unchanged -/

theorem opcode_ge_of_storesPixels {i : Instr} (h : i.StoresPixels) : 0x60 ≤ (opcode i).toNat := by
  obtain ⟨p, rfl | rfl | rfl | rfl⟩ := h <;> exact Nat.le_of_ble_eq_true rfl

theorem Effect.inputs_eq {i : Instr} {s t : State} (h : Effect i s t) : t.inputs = s.inputs := by
  cases h <;> rfl

/-- Only `SURF.SET` and `SURF.CLR`, opcodes 0x50 and 0x51, write the descriptor (R19). -/
theorem Effect.surface_eq {i : Instr} {s t : State} (h : Effect i s t)
    (hset : (opcode i).toNat ≠ 0x50) (hclr : (opcode i).toNat ≠ 0x51) : t.surface = s.surface := by
  cases h with
  | set p hi => subst hi; exact absurd rfl hset
  | clear p hi => subst hi; exact absurd rfl hclr
  | error | answer | load | store => rfl

/-- Only the family PIX, opcodes from 0x60 on, writes memory (R19). -/
theorem Effect.mem_eq {i : Instr} {s t : State} (h : Effect i s t) (hop : (opcode i).toNat < 0x60) : t.mem = s.mem := by
  cases h with
  | store hi => exact absurd (opcode_ge_of_storesPixels hi) (by omega)
  | error | answer | set | clear | load => rfl

/-- Only `SURF.LOAD`, opcode 0x59, and the family PIX make an access (R19). -/
theorem Effect.bus_eq {i : Instr} {s t : State} (h : Effect i s t) (hop : (opcode i).toNat < 0x59) : t.bus = s.bus := by
  cases h with
  | load p hi => subst hi; exact absurd hop (Nat.lt_irrefl _)
  | store hi => exact absurd (opcode_ge_of_storesPixels hi) (by omega)
  | error | answer | set | clear => rfl

/-- Every other command leaves a response and nothing else (R19). -/
theorem Effect.eq_present {i : Instr} {s t : State} (h : Effect i s t)
    (hop : (opcode i).toNat < 0x50 ∨ 0x52 ≤ (opcode i).toNat ∧ (opcode i).toNat ≤ 0x58) : ∃ r, t = s.present r := by
  cases h with
  | error | answer => exact ⟨_, rfl⟩
  | set p hi => subst hi; simp [opcode] at hop
  | clear p hi => subst hi; simp [opcode] at hop
  | load p hi => subst hi; simp [opcode] at hop
  | store hi => have := opcode_ge_of_storesPixels hi; omega

/-! ### The descriptor -/

/-- A surface that is set stays as it is until `SURF.CLR` removes it (R20). -/
theorem Effect.surface_kept_or_cleared {i : Instr} {s t : State} {d : Surface} (h : Effect i s t)
    (hd : s.surface = some d) : t.surface = some d ∨ (t.surface = none ∧ ∃ p, i = .surfClr p) := by
  cases h with
  | error | answer | load | store => exact .inl hd
  | set p hi hs => simp [hd] at hs
  | clear p hi => exact .inr ⟨rfl, p, hi⟩

/-- No effect leaves a descriptor that breaks R13. -/
theorem Effect.surface_legal {i : Instr} {s t : State} (h : Effect i s t) (hl : ∀ d, s.surface = some d → d.Legal) :
    ∀ d, t.surface = some d → d.Legal := by
  cases h with
  | error | answer | load | store => exact hl
  | set p hi hs hp => exact fun d hd => Option.some.inj hd ▸ hp
  | clear => exact fun _ hd => nomatch hd

theorem exec_surfSet_busy {p : Operands} {s : State} {d : Surface} (hd : s.surface = some d)
    (hf : inFormat .set p = true) : exec (.surfSet p) s = .next (s.present ⟨.errBusy, false, 0⟩) := by
  simp only [exec, execSurfSet, surfSetOver, checkOperands_pos s _ hf, hd]
  rfl

theorem exec_surfSet_legal {p : Operands} {s : State} (hs : s.surface = none) (hf : inFormat .set p = true)
    (hl : (describedSurface p).Legal) :
    exec (.surfSet p) s =
      .next (State.present { s with surface := some (describedSurface p) } ⟨.ok, false, 0⟩) := by
  obtain ⟨halign, hrange⟩ := hl
  simp only [exec, execSurfSet, surfSetOver, checkOperands_pos s _ hf, hs, setSurface]
  exact (if_neg (not_not_intro halign)).trans ((if_neg (Nat.not_lt.2 hrange)).trans (State.respond_eq _ _ _))

theorem exec_surfClr_some {s : State} {d : Surface} (hd : s.surface = some d) :
    exec (.surfClr noOperands) s = .next (State.present { s with surface := none } ⟨.ok, false, 0⟩) := by
  have hf : inFormat .n0 noOperands = true := by decide
  simp only [exec, execSurfClr, checkOperands_pos s _ hf, withSurface_some _ hd, State.respond_eq]

theorem Surface.count_le (d : Surface) : d.count ≤ 65535 * 65535 :=
  Nat.mul_le_mul (Nat.le_of_lt_succ d.width.isLt) (Nat.le_of_lt_succ d.height.isLt)

theorem Surface.size_le (d : Surface) : d.size ≤ 65535 * 65535 * 4 := by
  have hp : d.psize ≤ 4 := by rcases pixelBytes_cases d.fmt with h | h <;> simp [Surface.psize, h]
  exact Nat.mul_le_mul d.count_le hp

theorem Surface.align_eq (d : Surface) :
    d.align = (match d.purpose with | .generalBuffer => 16 | .displayFramebuffer => Config.displayAlign) := by
  unfold Surface.align
  cases d.purpose with
  | generalBuffer => exact alignOf_general _ _
  | displayFramebuffer => exact alignOf_display _

/-! ### Accesses -/

/-- A request of `PSIZE` bytes at pixel `k` of a legal surface is one the surface allows (R31, R34, R35). -/
theorem Surface.Legal.admits_pixel {d : Surface} (h : d.Legal) {k : Nat} (hk : k < d.count) {acc : MemAccess}
    (hbytes : acc.bytes = d.psize) (haddr : acc.addr = d.pixelAddr k) : d.Admits acc := by
  obtain ⟨hto, hend⟩ := h.pixelAddr_toNat hk
  have haligned : (d.pixelAddr k).toNat % d.psize = 0 := by
    simpa [aligned, Surface.psize] using h.aligned_pixelAddr hk
  refine ⟨hbytes, ?_, ?_, ?_⟩ <;> rw [haddr]
  · exact haligned
  · omega
  · omega

/-- On a legal surface a command makes no access, or one that the surface allows: a read by `SURF.LOAD`, a write by a
command that stores a pixel (R14, R35). -/
theorem Effect.bus_eq_or_admitted {i : Instr} {s t : State} (h : Effect i s t)
    (hl : ∀ d, s.surface = some d → d.Legal) :
    t.bus = s.bus ∨ ∃ (d : Surface) (acc : MemAccess), s.surface = some d ∧ t.surface = some d ∧
      t.bus = s.bus ++ [acc] ∧ d.Admits acc ∧
      ((∃ p, i = .surfLoad p) ∧ (∃ a n, acc = .read a n) ∨ i.StoresPixels ∧ ∃ a px, acc = .write a px) := by
  cases h with
  | error | answer | set | clear => exact .inl rfl
  | load p hi d hs k hk =>
    exact .inr ⟨d, .read (d.pixelAddr k) d.psize, hs, hs, rfl, (hl d hs).admits_pixel hk rfl rfl,
      .inl ⟨⟨p, hi⟩, _, _, rfl⟩⟩
  | store hi d hs k hk px hp =>
    exact .inr ⟨d, .write (d.pixelAddr k) px, hs, hs, rfl,
      (hl d hs).admits_pixel hk (congrArg pixelBytes hp) rfl, .inr ⟨hi, _, _, rfl⟩⟩

/-! ### The colour commands -/

/-- Every colour command is the operand check and then a fixed word (R19, R182). -/
theorem exec_colour {i : Instr} (h : isColour i = true) :
    ∃ data : Word, ∀ s : State,
      exec i s = checkOperands (instrFormat i) (operandWords i) s (s.respond false data) := by
  cases i with
  | surfSet | surfClr | surfBase | surfWidth | surfHeight | surfCount | surfAttr | surfOffs | surfAddr | surfLoad
  | drawA | storeA | drawB | storeB => exact nomatch h
  | _ => exact ⟨_, fun _ => rfl⟩

/-! ### No command but `SURF.LOAD` depends on memory -/

/-- An outcome with the memory of the next state left out of account. -/
def forgetMem : Result → Result
  | .next t => .next { t with mem := [] }
  | .fault f => .fault f
  | .refused r => .refused r

theorem forgetMem_next {r r' : Result} {t : State} (h : forgetMem r' = forgetMem r) (hr : r = .next t) :
    ∃ t', r' = .next t' ∧ t'.phase = t.phase ∧ t'.surface = t.surface ∧ t'.bus = t.bus := by
  subst hr
  cases r' with
  | next t' =>
    obtain ⟨hsurface, hphase, hbus, -⟩ : t'.surface = t.surface ∧ t'.phase = t.phase ∧ t'.bus = t.bus ∧
        t'.inputs = t.inputs := by simpa [forgetMem] using h
    exact ⟨t', rfl, hphase, hsurface, hbus⟩
  | fault | refused => simp [forgetMem] at h

/-- The same state over another memory. -/
def State.withMemory (s : State) (m : Memory) : State := { s with mem := m }

@[simp] theorem State.withMemory_surface (s : State) (m : Memory) : (s.withMemory m).surface = s.surface := rfl

theorem forgetMem_checkOperands {f : OperandFormat} {p : Operands} {s : State} {m : Memory} {k k' : Result}
    (h : forgetMem k' = forgetMem k) :
    forgetMem (checkOperands f p (s.withMemory m) k') = forgetMem (checkOperands f p s k) := by
  unfold checkOperands
  split
  · exact h
  · rfl

theorem forgetMem_withSurface {s : State} {m : Memory} {k k' : Surface → Result}
    (h : ∀ d, forgetMem (k' d) = forgetMem (k d)) :
    forgetMem (withSurface (s.withMemory m) k') = forgetMem (withSurface s k) := by
  cases hs : s.surface with
  | none => rw [withSurface_none k hs, withSurface_none (s := s.withMemory m) k' hs]; rfl
  | some d => rw [withSurface_some k hs, withSurface_some (s := s.withMemory m) k' hs]; exact h d

theorem forgetMem_checkIndex {idx : Word} {d : Surface} {s : State} {m : Memory} {k k' : Result}
    (h : forgetMem k' = forgetMem k) :
    forgetMem (checkIndex idx d (s.withMemory m) k') = forgetMem (checkIndex idx d s k) := by
  unfold checkIndex
  split
  · exact h
  · rfl

theorem forgetMem_storePixel (s : State) (m : Memory) (a : Word) (px : Pixel) :
    forgetMem (storePixel (s.withMemory m) a px) = forgetMem (storePixel s a px) := by
  unfold storePixel
  split <;> rfl

theorem forgetMem_drawPixel (policy : BoundsPolicy) (d : Surface) (x y : Int) (px : Pixel) (s : State) (m : Memory) :
    forgetMem (drawPixel policy d x y px (s.withMemory m)) = forgetMem (drawPixel policy d x y px s) := by
  unfold drawPixel
  split
  · exact forgetMem_storePixel _ _ _ _
  · rfl

theorem forgetMem_locatePoint (policy : BoundsPolicy) (p : Operands) (s : State) (m : Memory)
    (answer : Surface → Int → Int → Word) :
    forgetMem (locatePoint policy p (s.withMemory m) answer) = forgetMem (locatePoint policy p s answer) :=
  forgetMem_checkOperands <| forgetMem_withSurface fun d => by split <;> rfl

theorem forgetMem_queryDescriptor (p : Operands) (s : State) (m : Memory) (answer : Surface → Word) :
    forgetMem (queryDescriptor p (s.withMemory m) answer) = forgetMem (queryDescriptor p s answer) :=
  forgetMem_checkOperands <| forgetMem_withSurface fun _ => rfl

theorem forgetMem_setSurface (displayAlign : Nat) (d : Surface) (s : State) (m : Memory) :
    forgetMem (setSurface displayAlign d (s.withMemory m)) = forgetMem (setSurface displayAlign d s) := by
  unfold setSurface
  split
  · rfl
  · split <;> rfl

theorem forgetMem_surfSetOver (displayAlign : Nat) (p : Operands) (s : State) (m : Memory) :
    forgetMem (surfSetOver displayAlign p (s.withMemory m)) = forgetMem (surfSetOver displayAlign p s) :=
  forgetMem_checkOperands <| by
    rw [State.withMemory_surface]
    cases s.surface with
    | none => exact forgetMem_setSurface _ _ _ _
    | some d => rfl

/-- What a command other than `SURF.LOAD` responds, writes to the descriptor and requests does not depend on what memory
holds (R19). -/
theorem forgetMem_exec {i : Instr} (hi : ∀ p, i ≠ .surfLoad p) (s : State) (m : Memory) :
    forgetMem (exec i (s.withMemory m)) = forgetMem (exec i s) := by
  cases i with
  | surfLoad p => exact absurd rfl (hi p)
  | surfSet p => exact forgetMem_surfSetOver _ _ _ _
  | surfClr p => exact forgetMem_checkOperands <| forgetMem_withSurface fun _ => rfl
  | surfBase p | surfWidth p | surfHeight p | surfCount p | surfAttr p => exact forgetMem_queryDescriptor _ _ _ _
  | surfOffs p => exact forgetMem_locatePoint Config.boundsPolicy p s m fun d x y => BitVec.ofNat 32 (d.offset x y)
  | surfAddr p => exact forgetMem_locatePoint Config.boundsPolicy p s m _
  | drawA p | drawB p =>
    exact forgetMem_checkOperands <| forgetMem_withSurface fun _ => forgetMem_drawPixel _ _ _ _ _ _ _
  | storeA p | storeB p =>
    exact forgetMem_checkOperands <| forgetMem_withSurface fun _ => forgetMem_checkIndex <| forgetMem_storePixel _ _ _ _
  | _ => exact forgetMem_checkOperands rfl

end Sys2Proof.Machine
end

section
/-! SUPPORT. What one step of the machine can do, and the invariant. -/

namespace Sys2Proof.Machine

/-! ### The step -/

theorem step_eq (s : State) : step s = react (nextInput s) s.consumed := rfl

theorem nextInput_cons {s : State} {e : Input} {rest : List Input} (h : s.inputs = e :: rest) : nextInput s = e := by
  simp [nextInput, h]

theorem nextInput_nil {s : State} (h : s.inputs = []) : nextInput s = .cycle quietPins := by simp [nextInput, h]

/-- An input that is not the quiet cycle has been waiting in the list. -/
theorem inputs_of_nextInput {s : State} {e : Input} (h : nextInput s = e) (he : e ≠ .cycle quietPins) :
    s.inputs = e :: s.inputs.tail := by
  cases hs : s.inputs with
  | nil => exact absurd (h.symm.trans (nextInput_nil hs)) he
  | cons e' rest => rw [← h, nextInput_cons hs]; rfl

theorem clock_reset {pins : Pins} (h : pins.rst = true) (s : State) : clock pins s = .next s.applyReset := by
  simp [clock, h]

theorem clock_idle_some {pins : Pins} {s : State} {w : Command} (hrst : pins.rst = false) (h : s.phase = .idle)
    (hc : pins.cmd = some w) : clock pins s = .next (s.accept w) := by simp [clock, hrst, h, hc]

theorem clock_idle_none {pins : Pins} {s : State} (hrst : pins.rst = false) (h : s.phase = .idle)
    (hc : pins.cmd = none) : clock pins s = .next s := by simp [clock, hrst, h, hc]

theorem clock_responding_taken {pins : Pins} {s : State} {r : Response} (hrst : pins.rst = false)
    (h : s.phase = .responding r) (hr : pins.rspReady = true) : clock pins s = .next s.takeResponse := by
  simp [clock, hrst, h, hr]

theorem clock_responding_held {pins : Pins} {s : State} {r : Response} (hrst : pins.rst = false)
    (h : s.phase = .responding r) (hr : pins.rspReady = false) : clock pins s = .next s := by
  simp [clock, hrst, h, hr]

theorem clock_executing {pins : Pins} {s : State} {w : Command} (hrst : pins.rst = false)
    (h : s.phase = .executing w) : clock pins s = executeCommand w s := by simp [clock, hrst, h]

theorem executeCommand_ok {w : Command} {i : Instr} (h : decode w = .ok i) (s : State) :
    executeCommand w s = exec i s := by simp [executeCommand, h]

theorem executeCommand_error {w : Command} {e : DecodeError} (h : decode w = .error e) (s : State) :
    executeCommand w s = .next (s.erred .errIllegal) := by simp [executeCommand, h, State.raise_eq]

/-- What one step can do, with what is known of each case. -/
inductive Transition (s : State) : State → Prop
  /-- `rst` is high (R180). -/
  | reset (pins : Pins) (hin : s.inputs = .cycle pins :: s.inputs.tail) (hrst : pins.rst = true) :
      Transition s s.consumed.applyReset
  /-- A command is transferred (R51). -/
  | accept (w : Command) (hs : s.phase = .idle) : Transition s (s.consumed.accept w)
  /-- The command in flight executes (R51). -/
  | execute (w : Command) (i : Instr) (hs : s.phase = .executing w) (hw : decode w = .ok i) (t : State)
      (ht : Effect i s.consumed t) : Transition s t
  /-- A reserved opcode byte is answered (R58). -/
  | illegal (w : Command) (hs : s.phase = .executing w) : Transition s (s.consumed.erred .errIllegal)
  /-- The response is taken (R51). -/
  | take (r : Response) (hs : s.phase = .responding r) : Transition s s.consumed.takeResponse
  /-- Nothing but the input list moves. -/
  | wait : Transition s s.consumed
  /-- The host writes a byte (R44). -/
  | hostWrite (a : Word) (v : Byte) (hin : s.inputs = .hostWrite a v :: s.inputs.tail) :
      Transition s { s.consumed with mem := writeByte s.mem a.toNat v }

theorem Transition.of_execute {s t : State} {w : Command} (hs : s.phase = .executing w)
    (h : executeCommand w s.consumed = .next t) : Transition s t := by
  cases hw : decode w with
  | ok i => rw [executeCommand_ok hw] at h; exact .execute w i hs hw t (exec_effect h)
  | error e =>
    rw [executeCommand_error hw] at h
    cases h
    exact .illegal w hs

theorem Transition.of_clock {s t : State} {pins : Pins} (hin : nextInput s = .cycle pins)
    (h : clock pins s.consumed = .next t) : Transition s t := by
  cases hrst : pins.rst with
  | true =>
    rw [clock_reset hrst] at h
    cases h
    have hloud : Input.cycle pins ≠ .cycle quietPins := by rintro ⟨⟩; cases hrst
    exact .reset pins (inputs_of_nextInput hin hloud) hrst
  | false =>
    cases hs : s.phase with
    | idle =>
      cases hc : pins.cmd with
      | none => rw [clock_idle_none (s := s.consumed) hrst hs hc] at h; cases h; exact .wait
      | some w => rw [clock_idle_some (s := s.consumed) hrst hs hc] at h; cases h; exact .accept w hs
    | executing w =>
      rw [clock_executing (s := s.consumed) hrst hs] at h
      exact .of_execute hs h
    | responding r =>
      cases hr : pins.rspReady with
      | false => rw [clock_responding_held (s := s.consumed) hrst hs hr] at h; cases h; exact .wait
      | true => rw [clock_responding_taken (s := s.consumed) hrst hs hr] at h; cases h; exact .take r hs

/-- Whatever a step does is one of the seven transitions. -/
theorem step_transition {s t : State} (h : step s = .next t) : Transition s t := by
  rw [step_eq] at h
  cases hin : nextInput s with
  | cycle pins => rw [hin] at h; exact .of_clock hin h
  | scannerRead a => rw [hin] at h; cases h; exact .wait
  | hostRead a =>
    simp only [hin, react, hostRead] at h
    split at h <;> cases h
    exact .wait
  | hostWrite a v =>
    simp only [hin, react, hostWrite] at h
    split at h <;> cases h
    exact .hostWrite a v (inputs_of_nextInput hin nofun)

/-! ### The invariant -/

theorem Effect.mem_wf {i : Instr} {s t : State} (h : Effect i s t) (hm : s.mem.wf = true)
    (hl : ∀ d, s.surface = some d → d.Legal) : t.mem.wf = true := by
  cases h with
  | error | answer | set | clear | load => exact hm
  | store hi d hs k hk px hp =>
    obtain ⟨hto, hend⟩ := (hl d hs).pixelAddr_toNat hk
    have hrange := (hl d hs).2
    refine writePixel_wf _ _ _ ?_ hm
    rw [hp, hto]
    exact Nat.le_trans hend hrange

/-- An error response has flag 0 and data 0 (R161); the others complete. -/
theorem Effect.response_legal {i : Instr} {s t : State} (h : Effect i s t) :
    ∀ r, t.phase = .responding r → r.Legal := by
  cases h with
  | error => rintro r ⟨⟩ -; exact ⟨rfl, rfl⟩
  | answer | set | clear | load | store => rintro r ⟨⟩ hne; exact absurd rfl hne

theorem Effect.phase_ne_executing {i : Instr} {s t : State} (h : Effect i s t) (w : Command) :
    t.phase ≠ .executing w := by
  cases h <;> nofun

/-- A command that executes with no access recorded for it keeps the invariant. -/
theorem Effect.inv {i : Instr} {s t : State} (h : Effect i s t) (hs : s.Inv) (hbus : s.bus = []) : t.Inv where
  mem_wf := h.mem_wf hs.mem_wf hs.surface_legal
  surface_legal := h.surface_legal hs.surface_legal
  response_legal := h.response_legal
  bus_fresh w hw := absurd hw (h.phase_ne_executing w)
  bus_one := by
    rcases h.bus_eq_or_admitted hs.surface_legal with heq | ⟨_, _, _, _, heq, _⟩ <;> simp [heq, hbus]
  bus_admitted acc hacc := by
    rcases h.bus_eq_or_admitted hs.surface_legal with heq | ⟨d, acc', _, ht, heq, hadm, _⟩
    · simp [heq, hbus] at hacc
    · obtain rfl : acc = acc' := by simpa [heq, hbus] using hacc
      exact ⟨d, ht, hadm⟩

theorem State.Inv.consumed {s : State} (h : s.Inv) : s.consumed.Inv := { h with }

theorem State.Inv.applyReset {s : State} (h : s.Inv) : s.applyReset.Inv :=
  ⟨h.mem_wf, nofun, nofun, nofun, Nat.zero_le 1, nofun⟩

theorem State.Inv.accept {s : State} (h : s.Inv) (w : Command) : (s.accept w).Inv :=
  ⟨h.mem_wf, h.surface_legal, nofun, fun _ _ => rfl, Nat.zero_le 1, nofun⟩

theorem State.Inv.takeResponse {s : State} (h : s.Inv) : s.takeResponse.Inv :=
  { h with response_legal := nofun, bus_fresh := nofun }

theorem State.Inv.erred {s : State} (h : s.Inv) (e : Status) : (s.erred e).Inv :=
  { h with
    response_legal := by rintro r ⟨⟩ -; exact ⟨rfl, rfl⟩
    bus_fresh := nofun }

theorem State.Inv.hostWrite {s : State} (h : s.Inv) (a : Word) (v : Byte) :
    State.Inv { s with mem := writeByte s.mem a.toNat v } :=
  { h with mem_wf := writeByte_wf _ _ _ a.isLt h.mem_wf }

/-- Each transition keeps the invariant. -/
theorem Transition.inv {s t : State} (h : Transition s t) (hs : s.Inv) : t.Inv := by
  cases h with
  | reset => exact hs.consumed.applyReset
  | accept w => exact hs.consumed.accept w
  | execute w i hphase _ _ heff => exact heff.inv hs.consumed (hs.bus_fresh w hphase)
  | illegal => exact hs.consumed.erred _
  | take => exact hs.consumed.takeResponse
  | wait => exact hs.consumed
  | hostWrite a v => exact hs.consumed.hostWrite a v

end Sys2Proof.Machine
end

section
/-! The statements about the state: what a command and a step keep. -/

namespace Sys2Proof.Machine

/-- Settles O55: each of the seven transitions of a step keeps the invariant. -/
theorem everyStepKeepsTheInvariant : Obligations.EveryStepKeepsTheInvariant :=
  fun _ _ hs h => (step_transition h).inv hs

/-- Settles O17: a colour command is the operand check and then a fixed word, so its response is fixed by its operands. -/
theorem colourCommandsArePure : Obligations.ColourCommandsArePure := by
  intro i hi
  obtain ⟨data, hexec⟩ := exec_colour hi
  cases hf : inFormat (instrFormat i) (operandWords i) with
  | true => exact ⟨⟨.ok, false, data⟩, fun s => by rw [hexec, checkOperands_pos _ _ hf, State.respond_eq]⟩
  | false => exact ⟨⟨.errOperand, false, 0⟩, fun s => by rw [hexec, checkOperands_neg _ _ hf]; rfl⟩

/-- Settles O21, by the effects of a command and the completions of `SURF.CLR` and `SURF.SET`. -/
theorem descriptorIsFixedForItsLifetime : Obligations.DescriptorIsFixedForItsLifetime := by
  refine ⟨fun i s t d hd h => (exec_effect h).surface_kept_or_cleared hd,
    fun p s d hd hf => exec_surfSet_busy hd hf, fun p s d hd hf hl => ?_⟩
  exact ⟨_, _, exec_surfClr_some hd, exec_surfSet_legal rfl hf hl, rfl, rfl⟩

/-- Settles O23: no effect leaves an illegal descriptor, and the bounds follow from those of width, height and `PSIZE`. -/
theorem commandsPreserveLegalDescriptors : Obligations.CommandsPreserveLegalDescriptors :=
  ⟨fun _ _ _ hl h => (exec_effect h).surface_legal hl, fun d => ⟨d.count_le, d.size_le, d.align_eq⟩⟩

/-- Settles O37, by the effects of a command: only a load and a store make an access, at a pixel of the surface. -/
theorem atMostOneAdmittedAccess : Obligations.AtMostOneAdmittedAccess := by
  intro i s t hl h
  refine ((exec_effect h).bus_eq_or_admitted hl).imp_right ?_
  rintro ⟨d, acc, hs, -, hbus, ⟨hbytes, haligned, hlow, hhigh⟩, hkind⟩
  exact ⟨d, acc, hs, hbus, hbytes, haligned, hlow, hhigh, hkind⟩

/-- Settles O42: the frames of the effects by opcode, and the independence of memory of all but `SURF.LOAD`. -/
theorem familiesTouchOnlyTheirState : Obligations.FamiliesTouchOnlyTheirState := by
  intro i s t h
  have heff := exec_effect h
  refine ⟨heff.inputs_eq, heff.eq_present, fun hop => ⟨heff.mem_eq (by omega), heff.bus_eq (by omega)⟩,
    fun hop => ⟨heff.surface_eq (by omega) (by omega), heff.mem_eq (by omega)⟩,
    fun hop => heff.surface_eq (by omega) (by omega), fun hop m => ?_⟩
  have hload : ∀ p, i ≠ .surfLoad p := by rintro p rfl; exact hop rfl
  exact forgetMem_next (forgetMem_exec hload s m) h

/-- Settles O57: of the seven transitions only a reset and an executed command write the descriptor. -/
theorem onlyClearAndResetRemoveTheSurface : Obligations.OnlyClearAndResetRemoveTheSurface := by
  intro s t d hd h
  cases step_transition h with
  | reset pins hin hrst => exact .inr ⟨rfl, .inl ⟨pins, _, hin, hrst⟩⟩
  | execute w i hphase hw _ heff =>
    rcases heff.surface_kept_or_cleared hd with hkept | ⟨hnone, p, rfl⟩
    · exact .inl hkept
    · exact .inr ⟨hnone, .inr ⟨w, p, hphase, hw⟩⟩
  | accept | illegal | take | wait | hostWrite => exact .inl hd

/-- Settles O43: in both cases the input of the step is a cycle with `rst` low. -/
theorem stepRunsTheDecodedCommand : Obligations.StepRunsTheDecodedCommand := by
  intro s w i hphase hw hin
  obtain ⟨pins, hnext, hrst⟩ : ∃ pins, nextInput s = .cycle pins ∧ pins.rst = false := by
    rcases hin with hnil | ⟨pins, rest, hcons, hrst⟩
    · exact ⟨quietPins, nextInput_nil hnil, rfl⟩
    · exact ⟨pins, nextInput_cons hcons, hrst⟩
  calc step s = clock pins s.consumed := by rw [step_eq, hnext]; rfl
    _ = executeCommand w s.consumed := clock_executing hrst hphase
    _ = exec i s.consumed := executeCommand_ok hw _

/-- Settles O51: the fields of the state at reset and after `rst`. -/
theorem stateAfterReset : Obligations.StateAfterReset :=
  ⟨State.reset_surface, State.reset_phase,
    fun s => ⟨s.applyReset_surface, s.applyReset_phase, s.applyReset_mem⟩⟩

/-- Settles O54: at reset there is no surface, no response, no command in flight and no access. -/
theorem invariantHoldsAtReset : Obligations.InvariantHoldsAtReset where
  mem_wf := rfl
  surface_legal := nofun
  response_legal := nofun
  bus_fresh := nofun
  bus_one := Nat.zero_le 1
  bus_admitted := nofun

end Sys2Proof.Machine
end

section
/-! SUPPORT. The accesses to memory: the bytes of a pixel, the alignment of its address, the commands that make an access,
the bytes an effect changes, what completes, and what an outside agent may do. -/

namespace Sys2Proof.Machine

/-! ### The bytes of a pixel (R33) -/

/-- Byte `k` of a written pixel, from the lowest address. -/
theorem readByte_writePixel_inside (m : Memory) (a k : Nat) (px : Pixel) (ha : a + pixelBytes px.fmt ≤ 2 ^ 32)
    (h : m.wf = true) (hk : k < pixelBytes px.fmt) : readByte (writePixel m a px) (a + k) = pixelByte px k := by
  rw [readByte_writePixel m a (a + k) px ha h, if_pos (by omega), Nat.add_sub_cancel_left]

theorem pixelByte_a_toNat (w : Word) (k : Nat) : (pixelByte (.a w) k).toNat = w.toNat / 2 ^ (24 - 8 * k) % 256 := by
  simp only [pixelByte, BitVec.extractLsb'_toNat, Nat.shiftRight_eq_div_pow]

theorem pixelByte_b_toNat (h : Half) (k : Nat) : (pixelByte (.b h) k).toNat = h.toNat / 2 ^ (8 - 8 * k) % 256 := by
  simp only [pixelByte, BitVec.extractLsb'_toNat, Nat.shiftRight_eq_div_pow]

/-! ### The alignment of a pixel's address (R34) -/

theorem Surface.psize_dvd_addressSpace (d : Surface) : d.psize ∣ 2 ^ 32 := by
  rcases pixelBytes_cases d.fmt with h | h <;> rw [Surface.psize, h] <;> decide

/-- An address of the surface stands to the pixel size as the base does, also where it wraps. -/
theorem Surface.pixelAddr_mod_psize (d : Surface) (k : Nat) : (d.pixelAddr k).toNat % d.psize = d.base.toNat % d.psize := by
  rw [Surface.pixelAddr, BitVec.toNat_ofNat, Nat.mod_mod_of_dvd _ d.psize_dvd_addressSpace, Nat.add_mul_mod_self_right]

theorem Surface.not_aligned_pixelAddr {d : Surface} (h : d.base.toNat % d.psize ≠ 0) (k : Nat) :
    aligned (d.pixelAddr k) d.fmt = false :=
  beq_eq_false_iff_ne.2 ((d.pixelAddr_mod_psize k).trans_ne h)

theorem loadPixel_aligned {a : Word} {f : Format} (s : State) (h : aligned a f = true) :
    loadPixel s a f = (s.requestRead a (pixelBytes f)).respond false (readPixel s.mem a.toNat f).data := if_pos h

theorem loadPixel_misaligned {a : Word} {f : Format} (s : State) (h : aligned a f = false) :
    loadPixel s a f = .fault .misalignedAccess := if_neg (Bool.eq_false_iff.1 h)

theorem storePixel_aligned {a : Word} {px : Pixel} (s : State) (h : aligned a px.fmt = true) :
    storePixel s a px = (s.requestWrite a px).respond false 0 := if_pos h

theorem storePixel_misaligned {a : Word} {px : Pixel} (s : State) (h : aligned a px.fmt = false) :
    storePixel s a px = .fault .misalignedAccess := if_neg (Bool.eq_false_iff.1 h)

/-! ### The operand formats of the commands that access memory (R56) -/

theorem inFormat_idx {p : Operands} : inFormat .idx p = true ↔ p.p1 = 0 ∧ p.p2 = 0 ∧ p.p3 = 0 := by
  simp only [inFormat, formatMask, Bool.and_eq_true, fits_ones, fits_zero, true_and, and_assoc]

theorem inFormat_idxc32 {p : Operands} : inFormat .idxc32 p = true ↔ p.p2 = 0 ∧ p.p3 = 0 := by
  simp only [inFormat, formatMask, Bool.and_eq_true, fits_ones, fits_zero, true_and]

theorem inFormat_idxc16 {p : Operands} : inFormat .idxc16 p = true ↔ p.p1.toNat < 2 ^ 16 ∧ p.p2 = 0 ∧ p.p3 = 0 := by
  simp only [inFormat, formatMask, Bool.and_eq_true, fits_ones, fits_zero, fits_0xFFFF, true_and, and_assoc]

theorem inFormat_xyc32 {p : Operands} : inFormat .xyc32 p = true ↔ p.p3 = 0 := by
  simp only [inFormat, formatMask, Bool.and_eq_true, fits_ones, fits_zero, true_and]

theorem inFormat_xyc16 {p : Operands} : inFormat .xyc16 p = true ↔ p.p2.toNat < 2 ^ 16 ∧ p.p3 = 0 := by
  simp only [inFormat, formatMask, Bool.and_eq_true, fits_ones, fits_zero, fits_0xFFFF, true_and]

/-- A Format B colour fits the low half of an operand word. -/
theorem setWidth_half_lt (h : Half) : (h.setWidth 32).toNat < 2 ^ 16 := by
  rw [BitVec.toNat_setWidth]
  exact Nat.lt_of_le_of_lt (Nat.mod_le _ _) h.isLt

/-! ### The commands that access memory, past their checks -/

section
variable {s : State} {d : Surface} {p : Operands}

theorem checkIndex_pos {idx : Word} {k : Result} (h : idx.toNat < d.count) : checkIndex idx d s k = k := if_pos h

theorem drawPixel_hit {policy : BoundsPolicy} {x y : Int} (px : Pixel) (s : State) (h : inBounds policy d x y = true) :
    drawPixel policy d x y px s = storePixel s (d.pointAddr x y) px := if_pos h

theorem exec_surfLoad_index (hd : s.surface = some d) (hf : inFormat .idx p = true) (hk : p.p0.toNat < d.count) :
    exec (.surfLoad p) s = loadPixel s (d.pixelAddr p.p0.toNat) d.fmt :=
  (checkOperands_pos s _ hf).trans ((withSurface_some _ hd).trans (checkIndex_pos hk))

theorem exec_storeA_index (hd : s.surface = some d) (hf : inFormat .idxc32 p = true) (hk : p.p0.toNat < d.count) :
    exec (.storeA p) s = storePixel s (d.pixelAddr p.p0.toNat) (nativeA p.p1 d.fmt) :=
  (checkOperands_pos s _ hf).trans ((withSurface_some _ hd).trans (checkIndex_pos hk))

theorem exec_storeB_index (hd : s.surface = some d) (hf : inFormat .idxc16 p = true) (hk : p.p0.toNat < d.count) :
    exec (.storeB p) s = storePixel s (d.pixelAddr p.p0.toNat) (nativeB (half p.p1) d.fmt) :=
  (checkOperands_pos s _ hf).trans ((withSurface_some _ hd).trans (checkIndex_pos hk))

theorem exec_drawA_hit (hd : s.surface = some d) (hf : inFormat .xyc32 p = true)
    (hb : inBounds .strict d p.p0.toInt p.p1.toInt = true) :
    exec (.drawA p) s = storePixel s (d.pointAddr p.p0.toInt p.p1.toInt) (nativeA p.p2 d.fmt) :=
  (checkOperands_pos s _ hf).trans ((withSurface_some _ hd).trans (drawPixel_hit _ s hb))

theorem exec_drawB_hit (hd : s.surface = some d) (hf : inFormat .xyc16 p = true)
    (hb : inBounds .strict d p.p0.toInt p.p1.toInt = true) :
    exec (.drawB p) s = storePixel s (d.pointAddr p.p0.toInt p.p1.toInt) (nativeB (half p.p2) d.fmt) :=
  (checkOperands_pos s _ hf).trans ((withSurface_some _ hd).trans (drawPixel_hit _ s hb))

end

/-! ### The bytes an effect changes -/

theorem Surface.owns_iff {d : Surface} {a : Nat} :
    d.owns a = true ↔ d.base.toNat ≤ a ∧ a < d.base.toNat + d.size := by simp [Surface.owns]

/-- The bytes of pixel `k` of a legal surface are the surface's (R31). -/
theorem Surface.Legal.owns_pixel {d : Surface} (h : d.Legal) {k b : Nat} (hk : k < d.count)
    (hlow : (d.pixelAddr k).toNat ≤ b) (hhigh : b < (d.pixelAddr k).toNat + d.psize) : d.owns b = true := by
  obtain ⟨hto, hend⟩ := h.pixelAddr_toNat hk
  exact Surface.owns_iff.2 ⟨by omega, by omega⟩

/-- A command changes a byte only as one that stores a pixel, on a surface that owns the byte (R31, R35). -/
theorem Effect.owns_of_readByte_ne {i : Instr} {s t : State} {b : Nat} (h : Effect i s t) (hm : s.mem.wf = true)
    (hl : ∀ d, s.surface = some d → d.Legal) (hne : readByte t.mem b ≠ readByte s.mem b) :
    i.StoresPixels ∧ ∃ d, s.surface = some d ∧ d.owns b = true := by
  cases h with
  | error | answer | set | clear | load => exact absurd rfl hne
  | store hi d hs k hk px hp =>
    obtain ⟨hto, hend⟩ := (hl d hs).pixelAddr_toNat hk
    have hbytes : pixelBytes px.fmt = d.psize := congrArg pixelBytes hp
    have hspace : (d.pixelAddr k).toNat + pixelBytes px.fmt ≤ 2 ^ 32 := by
      rw [hto, hbytes]; exact hend.trans (hl d hs).2
    have hin : ¬ (b < (d.pixelAddr k).toNat ∨ (d.pixelAddr k).toNat + pixelBytes px.fmt ≤ b) := fun hout =>
      hne (readByte_writePixel_outside _ _ _ _ hspace hm hout)
    exact ⟨hi, d, hs, (hl d hs).owns_pixel hk (by omega) (by omega)⟩

/-! ### What completes (R34, R166) -/

/-- The machine goes on: neither a fault nor a refusal. -/
def Completes (r : Result) : Prop := ∃ t, r = .next t

theorem completes_checkOperands {f : OperandFormat} {p : Operands} {s : State} {k : Result} (h : Completes k) :
    Completes (checkOperands f p s k) := by
  unfold checkOperands
  split
  · exact h
  · exact ⟨_, rfl⟩

theorem completes_withSurface {s : State} {k : Surface → Result} (h : ∀ d, s.surface = some d → Completes (k d)) :
    Completes (withSurface s k) := by
  cases hd : s.surface with
  | none => exact ⟨_, withSurface_none k hd⟩
  | some d => rw [withSurface_some k hd]; exact h d hd

theorem completes_checkIndex {idx : Word} {d : Surface} {s : State} {k : Result}
    (h : idx.toNat < d.count → Completes k) : Completes (checkIndex idx d s k) := by
  unfold checkIndex
  split
  · exact h ‹_›
  · exact ⟨_, rfl⟩

theorem Surface.Legal.completes_loadPixel {d : Surface} (h : d.Legal) (s : State) {k : Nat} (hk : k < d.count) :
    Completes (loadPixel s (d.pixelAddr k) d.fmt) := ⟨_, loadPixel_aligned s (h.aligned_pixelAddr hk)⟩

theorem Surface.Legal.completes_storePixel {d : Surface} (h : d.Legal) (s : State) {k : Nat} {px : Pixel}
    (hk : k < d.count) (hp : px.fmt = d.fmt) : Completes (storePixel s (d.pixelAddr k) px) :=
  ⟨_, storePixel_aligned s (hp ▸ h.aligned_pixelAddr hk)⟩

theorem Surface.Legal.completes_drawPixel {d : Surface} (h : d.Legal) (s : State) {x y : Int} {px : Pixel}
    (hp : px.fmt = d.fmt) : Completes (drawPixel .strict d x y px s) := by
  unfold drawPixel
  split
  · exact h.completes_storePixel s (offset_lt_count ‹_›) hp
  · exact ⟨_, rfl⟩

theorem completes_queryDescriptor (p : Operands) (s : State) (answer : Surface → Word) :
    Completes (queryDescriptor p s answer) :=
  completes_checkOperands <| completes_withSurface fun _ _ => ⟨_, rfl⟩

theorem completes_locatePoint (policy : BoundsPolicy) (p : Operands) (s : State) (answer : Surface → Int → Int → Word) :
    Completes (locatePoint policy p s answer) :=
  completes_checkOperands <| completes_withSurface fun _ _ => by split <;> exact ⟨_, rfl⟩

theorem completes_setSurface (displayAlign : Nat) (d : Surface) (s : State) : Completes (setSurface displayAlign d s) := by
  unfold setSurface
  split
  · exact ⟨_, rfl⟩
  · split <;> exact ⟨_, rfl⟩

theorem completes_execSurfSet (p : Operands) (s : State) : Completes (execSurfSet p s) :=
  completes_checkOperands <| by
    split
    · exact ⟨_, rfl⟩
    · exact completes_setSurface _ _ _

/-- On a legal surface, and without one, no command faults: the only fault is a misaligned access (R34, R166). -/
theorem completes_exec (i : Instr) {s : State} (hl : ∀ d, s.surface = some d → d.Legal) : Completes (exec i s) := by
  cases i with
  | surfSet p => exact completes_execSurfSet p s
  | surfClr p => exact completes_checkOperands <| completes_withSurface fun _ _ => ⟨_, rfl⟩
  | surfBase p | surfWidth p | surfHeight p | surfCount p | surfAttr p => exact completes_queryDescriptor _ _ _
  | surfOffs p => exact completes_locatePoint Config.boundsPolicy p s fun d x y => BitVec.ofNat 32 (d.offset x y)
  | surfAddr p => exact completes_locatePoint Config.boundsPolicy p s _
  | surfLoad p =>
    exact completes_checkOperands <| completes_withSurface fun d hd => completes_checkIndex fun hk =>
      (hl d hd).completes_loadPixel s hk
  | drawA p =>
    exact completes_checkOperands <| completes_withSurface fun d hd => (hl d hd).completes_drawPixel s (nativeA_fmt _ _)
  | drawB p =>
    exact completes_checkOperands <| completes_withSurface fun d hd => (hl d hd).completes_drawPixel s (nativeB_fmt _ _)
  | storeA p =>
    exact completes_checkOperands <| completes_withSurface fun d hd => completes_checkIndex fun hk =>
      (hl d hd).completes_storePixel s hk (nativeA_fmt _ _)
  | storeB p =>
    exact completes_checkOperands <| completes_withSurface fun d hd => completes_checkIndex fun hk =>
      (hl d hd).completes_storePixel s hk (nativeB_fmt _ _)
  | _ => exact completes_checkOperands ⟨_, rfl⟩

theorem completes_executeCommand (w : Command) {s : State} (hl : ∀ d, s.surface = some d → d.Legal) :
    Completes (executeCommand w s) := by
  cases hw : decode w with
  | ok i => rw [executeCommand_ok hw]; exact completes_exec i hl
  | error e => exact ⟨_, executeCommand_error hw s⟩

/-- The block's own step never stops on a legal surface, whatever the pins. -/
theorem completes_clock (pins : Pins) {s : State} (hl : ∀ d, s.surface = some d → d.Legal) :
    Completes (clock pins s) := by
  cases hrst : pins.rst with
  | true => exact ⟨_, clock_reset hrst s⟩
  | false =>
    cases hs : s.phase with
    | idle =>
      cases hc : pins.cmd with
      | none => exact ⟨_, clock_idle_none hrst hs hc⟩
      | some w => exact ⟨_, clock_idle_some hrst hs hc⟩
    | executing w => rw [clock_executing hrst hs]; exact completes_executeCommand w hl
    | responding r =>
      cases hr : pins.rspReady with
      | false => exact ⟨_, clock_responding_held hrst hs hr⟩
      | true => exact ⟨_, clock_responding_taken hrst hs hr⟩

/-! ### The agents outside the block (R40, R44) -/

theorem isIdle_iff {p : Phase} : isIdle p = true ↔ p = .idle := by
  cases p <;> simp [isIdle]

theorem State.ownsByte_iff {s : State} {a : Nat} :
    s.ownsByte a = true ↔ ∃ d, s.surface = some d ∧ d.owns a = true := by
  cases hs : s.surface <;> simp [State.ownsByte, hs]

theorem hostMayAccess_idle {s : State} (h : s.phase = .idle) (a : Word) : hostMayAccess s a = true := by
  simp [hostMayAccess, isIdle_iff.2 h]

/-- The host is kept from a byte exactly while a command is in flight and the surface owns the byte (R44, U11). -/
theorem not_hostMayAccess_iff {s : State} {a : Word} :
    hostMayAccess s a = false ↔ s.phase ≠ .idle ∧ ∃ d, s.surface = some d ∧ d.owns a.toNat = true := by
  rw [← State.ownsByte_iff, ne_eq, ← isIdle_iff]
  simp [hostMayAccess]

theorem hostRead_allowed {s : State} {a : Word} (h : hostMayAccess s a = true) : hostRead a s = .next s := if_pos h

theorem hostRead_refused {s : State} {a : Word} (h : hostMayAccess s a = false) :
    hostRead a s = .refused .hostAccessInFlight := if_neg (Bool.eq_false_iff.1 h)

theorem hostWrite_allowed {s : State} {a : Word} (v : Byte) (h : hostMayAccess s a = true) :
    hostWrite a v s = .next { s with mem := writeByte s.mem a.toNat v } := if_pos h

theorem hostWrite_refused {s : State} {a : Word} (v : Byte) (h : hostMayAccess s a = false) :
    hostWrite a v s = .refused .hostAccessInFlight := if_neg (Bool.eq_false_iff.1 h)

/-- A step with an input waiting does what that input does, at the state that has the other inputs still to come. -/
theorem step_cons {s : State} {e : Input} {rest : List Input} (h : s.inputs = e :: rest) :
    step s = react e { s with inputs := rest } := by
  rw [step_eq, nextInput_cons h, State.consumed, h, List.tail_cons]

theorem step_nil {s : State} (h : s.inputs = []) : step s = clock quietPins s.consumed := by
  rw [step_eq, nextInput_nil h]
  rfl

end Sys2Proof.Machine
end

section
/-! The statements about memory: pixels, misaligned accesses, the outside agents, progress and the frame of a step. -/

namespace Sys2Proof.Machine

/-- Settles O30: byte `k` of a pixel, for each format, and the two readings of four bytes. -/
theorem pixelsAreBigEndian : Obligations.PixelsAreBigEndian := by
  refine ⟨fun m a v hm ha => ?_, fun m a v hm ha => ?_, fun m a => ?_⟩
  · have hv := v.isLt
    have hbyte : ∀ k < 4, (readByte (writePixel m a (.a v)) (a + k)).toNat = v.toNat / 2 ^ (24 - 8 * k) % 256 :=
      fun k hk => by rw [readByte_writePixel_inside m a k (.a v) ha hm hk, pixelByte_a_toNat]
    exact ⟨writePixel_wf m a (.a v) ha hm, (hbyte 0 (by decide)).trans (Nat.mod_eq_of_lt (by omega)),
      hbyte 1 (by decide), hbyte 2 (by decide), (hbyte 3 (by decide)).trans (by simp),
      fun b => readByte_writePixel_outside m a b (.a v) ha hm⟩
  · have hv := v.isLt
    have hbyte : ∀ k < 2, (readByte (writePixel m a (.b v)) (a + k)).toNat = v.toNat / 2 ^ (8 - 8 * k) % 256 :=
      fun k hk => by rw [readByte_writePixel_inside m a k (.b v) ha hm hk, pixelByte_b_toNat]
    exact ⟨writePixel_wf m a (.b v) ha hm, (hbyte 0 (by decide)).trans (Nat.mod_eq_of_lt (by omega)),
      (hbyte 1 (by decide)).trans (by simp), fun b => readByte_writePixel_outside m a b (.b v) ha hm⟩
  · refine ⟨_, _, _, rfl, rfl, rfl, toNat_append4 _ _ _ _, toNat_append2 _ _, ?_⟩
    rw [toNat_append4, toNat_append2, toNat_append2, show a + 2 + 1 = a + 3 from rfl]
    omega

/-- Settles O38: every pixel address is misaligned with the base, so past the checks each access faults. -/
theorem misalignedAccessFaults : Obligations.MisalignedAccessFaults := by
  intro s d idx x y c h hd hbase
  have hload : ∀ k, loadPixel s (d.pixelAddr k) d.fmt = .fault .misalignedAccess := fun k =>
    loadPixel_misaligned s (d.not_aligned_pixelAddr hbase k)
  have hstore : ∀ k px, px.fmt = d.fmt → storePixel s (d.pixelAddr k) px = .fault .misalignedAccess := fun k px hp =>
    storePixel_misaligned s (hp ▸ d.not_aligned_pixelAddr hbase k)
  refine ⟨fun hk => ⟨?_, ?_, ?_⟩, fun hb => ⟨?_, ?_⟩⟩
  · exact (exec_surfLoad_index hd (inFormat_idx.2 ⟨rfl, rfl, rfl⟩) hk).trans (hload _)
  · exact (exec_storeA_index hd (inFormat_idxc32.2 ⟨rfl, rfl⟩) hk).trans (hstore _ _ (nativeA_fmt _ _))
  · exact (exec_storeB_index hd (inFormat_idxc16.2 ⟨setWidth_half_lt h, rfl, rfl⟩) hk).trans
      (hstore _ _ (nativeB_fmt _ _))
  · exact (exec_drawA_hit hd (inFormat_xyc32.2 rfl) hb).trans (hstore _ _ (nativeA_fmt _ _))
  · exact (exec_drawB_hit hd (inFormat_xyc16.2 ⟨setWidth_half_lt h, rfl⟩) hb).trans (hstore _ _ (nativeB_fmt _ _))

/-- Settles O53: the step of each outside agent, and when the host is kept from a byte. -/
theorem outsideAgentsOnlyTouchMemory : Obligations.OutsideAgentsOnlyTouchMemory := by
  intro s a v rest hm
  refine ⟨fun hin => step_cons hin, fun hin hidle => ?_, fun hin hidle => ?_, fun d hd hphase hlow hhigh => ?_⟩
  · exact (step_cons hin).trans (hostRead_allowed (hostMayAccess_idle hidle a))
  · have hread := fun b => readByte_writeByte s.mem a.toNat b v hm
    exact ⟨_, (step_cons hin).trans (hostWrite_allowed v (hostMayAccess_idle hidle a)), rfl, hidle, rfl, rfl,
      writeByte_wf _ _ _ a.isLt hm, (hread _).trans (if_pos rfl), fun b hb => (hread b).trans (if_neg hb)⟩
  · have hkept : hostMayAccess { s with inputs := rest } a = false :=
      not_hostMayAccess_iff.2 ⟨hphase, d, hd, Surface.owns_iff.2 ⟨hlow, hhigh⟩⟩
    exact ⟨fun hin => (step_cons hin).trans (hostWrite_refused v hkept),
      fun hin => (step_cons hin).trans (hostRead_refused hkept)⟩

/-- Settles O56, by the input of the step: the block's own step completes, and the host is refused only where it may not
access the byte. -/
theorem noStepFaultsFromTheInvariant : Obligations.NoStepFaultsFromTheInvariant := by
  intro s hs
  cases hin : s.inputs with
  | nil => rw [step_nil hin]; exact .inl (completes_clock _ hs.consumed.surface_legal)
  | cons e rest =>
    rw [step_cons hin]
    cases e with
    | cycle pins => exact .inl (completes_clock pins hs.surface_legal)
    | scannerRead a => exact .inl ⟨_, rfl⟩
    | hostRead a =>
      cases hmay : hostMayAccess { s with inputs := rest } a with
      | true => exact .inl ⟨_, hostRead_allowed hmay⟩
      | false =>
        obtain ⟨hphase, d, hd, howns⟩ := not_hostMayAccess_iff.1 hmay
        exact .inr ⟨hostRead_refused hmay, hphase, d, a, rest, hd, howns, .inl rfl⟩
    | hostWrite a v =>
      cases hmay : hostMayAccess { s with inputs := rest } a with
      | true => exact .inl ⟨_, hostWrite_allowed v hmay⟩
      | false =>
        obtain ⟨hphase, d, hd, howns⟩ := not_hostMayAccess_iff.1 hmay
        exact .inr ⟨hostWrite_refused v hmay, hphase, d, a, rest, hd, howns, .inr ⟨v, rfl⟩⟩

/-- Settles O58: of the seven transitions only the host's write and an executed store change a byte. -/
theorem memoryChangesOnlyByStoresAndTheHost : Obligations.MemoryChangesOnlyByStoresAndTheHost := by
  intro s t b hs h hne
  cases step_transition h with
  | reset | accept | illegal | take | wait => exact absurd rfl hne
  | execute w i hphase hw _ heff =>
    obtain ⟨⟨p, hstores⟩, d, hd, howns⟩ := heff.owns_of_readByte_ne hs.mem_wf hs.surface_legal hne
    refine .inr ⟨d, w, p, hd, howns, hphase, ?_⟩
    rcases hstores with rfl | rfl | rfl | rfl <;> simp [hw]
  | hostWrite a v hin =>
    refine .inl ⟨a, v, _, hin, by_contra fun hb => hne ?_⟩
    exact (readByte_writeByte s.mem a.toNat b v hs.mem_wf).trans (if_neg hb)

end Sys2Proof.Machine
end

section
/-! SUPPORT. The decoder and the encoder: the fields of a command word, what each outcome of `decode` says of the opcode
byte, and the rows of R58. -/

namespace Sys2Proof.Machine

/-! ### The fields of a command word (R50) -/

/-- The opcode byte is the topmost of the seventeen bytes. -/
theorem opField_toNat (w : Command) : (opField w).toNat = w.toNat / 2 ^ 128 := by
  have hw := w.isLt
  rw [opField, BitVec.extractLsb'_toNat, Nat.shiftRight_eq_div_pow]
  exact Nat.mod_eq_of_lt (by omega)

/-- The five fields are adjacent, so together they are the whole word. -/
theorem commandWord_fields (w : Command) : commandWord (opField w) (operandFields w) = w := by
  simp only [commandWord, opField, operandFields]
  iterate 4 rw [BitVec.extractLsb'_append_extractLsb'_eq_extractLsb' (by rfl)]
  exact BitVec.extractLsb'_eq_self

/-! ### The opcode map (R55) -/

theorem instrOfOp_opcode (i : Instr) : instrOfOp (opcode i).toNat (operandWords i) = some i := by
  cases i <;> rfl

theorem opcode_of_instrOfOp {op : Nat} {p : Operands} {i : Instr} (h : instrOfOp op p = some i) :
    (opcode i).toNat = op ∧ operandWords i = p := by
  unfold instrOfOp at h
  split at h <;> cases h <;> exact ⟨rfl, rfl⟩

theorem decode_eq_ok_iff {w : Command} {i : Instr} :
    decode w = .ok i ↔ instrOfOp (opField w).toNat (operandFields w) = some i := by
  unfold decode
  cases instrOfOp (opField w).toNat (operandFields w) <;> simp

theorem decode_eq_error_iff {w : Command} {e : DecodeError} :
    decode w = .error e ↔
      instrOfOp (opField w).toNat (operandFields w) = none ∧ reservedReason (opField w) = e := by
  unfold decode
  cases instrOfOp (opField w).toNat (operandFields w) <;> simp

theorem decode_encode (i : Instr) : decode (encode i) = .ok i := by
  rw [decode_eq_ok_iff, encode, Laws.opField_commandWord, Laws.operandFields_commandWord]
  exact instrOfOp_opcode i

theorem decode_of_encode_eq {w : Command} {i : Instr} (h : encode i = w) : decode w = .ok i :=
  h ▸ decode_encode i

theorem encode_of_decode {w : Command} {i : Instr} (h : decode w = .ok i) : encode i = w := by
  obtain ⟨hop, hwords⟩ := opcode_of_instrOfOp (decode_eq_ok_iff.1 h)
  rw [encode, BitVec.eq_of_toNat_eq hop, hwords, commandWord_fields]

/-! ### The reserved bytes (R58) -/

theorem reservedByte_of_row {op : Nat} {e : DecodeError} (h : reservedRow e op) : reservedByte op := by
  cases e with
  | packSelector => exact .inl h
  | chanSelector => exact .inr (.inl h)
  | cvtSelector => exact .inr (.inr (.inl h))
  | gammaSelector => exact .inr (.inr (.inr (.inl h)))
  | surfFunction => exact .inr (.inr (.inr (.inr (.inl h))))
  | pixSelector => exact .inr (.inr (.inr (.inr (.inr (.inl h)))))
  | family => exact .inr (.inr (.inr (.inr (.inr (.inr h)))))

theorem row_of_reservedByte {op : Nat} (h : reservedByte op) : ∃ e, reservedRow e op := by
  rcases h with h | h | h | h | h | h | h <;> exact ⟨_, h⟩

theorem not_reservedByte_opcode (i : Instr) : ¬ reservedByte (opcode i).toNat := by
  cases i <;> exact of_decide_eq_false rfl

/-- The bytes that the opcode map leaves out are in a row of R58. -/
theorem reservedByte_of_instrOfOp_eq_none {op : Nat} {p : Operands} (hop : op < 256) (h : instrOfOp op p = none) :
    reservedByte op := by
  unfold instrOfOp at h
  split at h
  case h_45 =>
    simp only [imp_false] at *
    simp only [reservedByte, reservedRow]
    omega
  all_goals cases h

/-- The opcode map and the rows of R58 divide the bytes between them. -/
theorem instrOfOp_eq_none_iff {op : Nat} {p : Operands} (hop : op < 256) :
    instrOfOp op p = none ↔ reservedByte op := by
  refine ⟨reservedByte_of_instrOfOp_eq_none hop, fun h => ?_⟩
  cases hi : instrOfOp op p with
  | none => rfl
  | some i => exact absurd ((opcode_of_instrOfOp hi).1 ▸ h) (not_reservedByte_opcode i)

theorem familyField_toNat (op : BitVec 8) : (op.extractLsb' 4 4).toNat = op.toNat / 16 := by
  have hop := op.isLt
  rw [BitVec.extractLsb'_toNat, Nat.shiftRight_eq_div_pow]
  omega

/-- Each row of R58 lies within the families of its reason (R52). -/
theorem reservedReason_of_row {e : DecodeError} {op : BitVec 8} (h : reservedRow e op.toNat) :
    reservedReason op = e := by
  have hop := op.isLt
  unfold reservedReason
  rw [familyField_toNat]
  cases e with simp only [reservedRow] at h
  | packSelector => simp only [show op.toNat / 16 = 0 by omega]
  | chanSelector => simp only [show op.toNat / 16 = 1 by omega]
  | cvtSelector => simp only [show op.toNat / 16 = 2 by omega]
  | gammaSelector => simp only [show op.toNat / 16 = 3 by omega]
  | surfFunction => simp only [show op.toNat / 16 = 5 by omega]
  | pixSelector => simp only [show op.toNat / 16 = 6 by omega]
  | family =>
    split
    case h_7 => rfl
    all_goals omega

/-- The decoder refuses exactly the words whose opcode byte is in a row of R58, for the reason of that row. -/
theorem decode_eq_error_iff_row {w : Command} {e : DecodeError} :
    decode w = .error e ↔ reservedRow e (w.toNat / 2 ^ 128) := by
  rw [decode_eq_error_iff, instrOfOp_eq_none_iff (opField w).isLt, ← opField_toNat]
  constructor
  · rintro ⟨hbyte, rfl⟩
    obtain ⟨e, hrow⟩ := row_of_reservedByte hbyte
    rwa [reservedReason_of_row hrow]
  · exact fun hrow => ⟨reservedByte_of_row hrow, reservedReason_of_row hrow⟩

theorem executeCommand_reserved {w : Command} (s : State) (h : reservedByte (w.toNat / 2 ^ 128)) :
    executeCommand w s = .next (s.erred .errIllegal) := by
  obtain ⟨e, hrow⟩ := row_of_reservedByte h
  exact executeCommand_error (decode_eq_error_iff_row.2 hrow) s

end Sys2Proof.Machine
end

section
/-! The statements about the encoding. -/

namespace Sys2Proof.Machine

/-- Settles O1: the decoder reads the five fields where the encoder puts them, and the opcode map gives the command back. -/
theorem decodeInvertsEncode : Obligations.DecodeInvertsEncode := decode_encode

/-- Settles O2: a command has the opcode byte and operand words of the word that decodes to it, and these are the word. -/
theorem encodeInvertsDecode : Obligations.EncodeInvertsDecode := fun _ _ => encode_of_decode

/-- Settles O3: the rows of R58 are what the opcode map leaves out; their 212 bytes are counted. -/
theorem reservedOpcodesOnlyRespondIllegal : Obligations.ReservedOpcodesOnlyRespondIllegal :=
  ⟨fun _ _ => decode_eq_error_iff_row, fun _ s h => executeCommand_reserved s h, rfl⟩

/-- Settles O5: each of the eight words is the encoding of its command. -/
theorem writtenOutWordsDecode : Obligations.WrittenOutWordsDecode :=
  ⟨decode_of_encode_eq rfl, decode_of_encode_eq rfl, decode_of_encode_eq rfl, decode_of_encode_eq rfl,
    decode_of_encode_eq rfl, decode_of_encode_eq rfl, decode_of_encode_eq rfl, decode_of_encode_eq rfl⟩

end Sys2Proof.Machine
end

section
/-! SUPPORT. What a command answers: the operand check in front of every meaning, and past it the flag and the data of the
response (R53, R57). -/

namespace Sys2Proof

/-- The two commands whose response carries the hit bit (R53). -/
def Instr.locatesPoint : Instr → Bool
  | .surfOffs _ | .surfAddr _ => true
  | _ => false

theorem Instr.eq_of_locatesPoint {i : Instr} (h : i.locatesPoint = true) : ∃ p, i = .surfOffs p ∨ i = .surfAddr p := by
  cases i with
  | surfOffs p => exact ⟨p, .inl rfl⟩
  | surfAddr p => exact ⟨p, .inr rfl⟩
  | _ => cases h

end Sys2Proof

namespace Sys2Proof.Machine

/-! ### The width of a result (R53) -/

/-- The number of low bits of `data` in which the result of a command stands while the flag is 0: no bit for a command
without a result and for a point that misses. -/
def resultBits (s : State) : Instr → Nat
  | .packA _ | .cvtBA _ | .gammaA _ | .surfBase _ | .surfCount _ | .surfAttr _ => 32
  | .packB _ | .cvtAB _ | .gammaB _ | .surfWidth _ | .surfHeight _ => 16
  | .chanAR _ | .chanAG _ | .chanAB _ | .chanAA _ => 8
  | .chanBR _ | .chanBG _ | .chanBB _ => 5
  | .chanBA _ => 1
  | .constABlack _ | .constARed _ | .constAGreen _ | .constABlue _ | .constAYellow _ | .constAMagenta _ | .constACyan _
  | .constAWhite _ => 32
  | .constBBlack _ | .constBRed _ | .constBGreen _ | .constBBlue _ | .constBYellow _ | .constBMagenta _ | .constBCyan _
  | .constBWhite _ => 16
  | .surfLoad _ => match s.surface with
    | some d => 8 * d.psize
    | none => 0
  | .surfSet _ | .surfClr _ | .surfOffs _ | .surfAddr _ | .drawA _ | .storeA _ | .drawB _ | .storeB _ => 0

theorem resultBits_surfLoad {s : State} {d : Surface} (hd : s.surface = some d) (p : Operands) :
    resultBits s (.surfLoad p) = 8 * d.psize := by simp only [resultBits, hd]

theorem resultBits_of_set_clr_pix {i : Instr} (s : State)
    (hop : (opcode i).toNat = 0x50 ∨ (opcode i).toNat = 0x51 ∨ 0x60 ≤ (opcode i).toNat) :
    i.locatesPoint = false ∧ resultBits s i = 0 := by
  cases i with
  | surfSet | surfClr | drawA | storeA | drawB | storeB => exact ⟨rfl, rfl⟩
  | _ => simp [opcode] at hop

theorem resultBits_of_constB {i : Instr} (s : State) (hop : 0x48 ≤ (opcode i).toNat ∧ (opcode i).toNat ≤ 0x4F) :
    i.locatesPoint = false ∧ resultBits s i = 16 := by
  cases i with
  | constBBlack | constBRed | constBGreen | constBBlue | constBYellow | constBMagenta | constBCyan | constBWhite =>
    exact ⟨rfl, rfl⟩
  | _ => simp [opcode] at hop

theorem toNat_setWidth_lt {n : Nat} (v : BitVec n) : (v.setWidth 32).toNat < 2 ^ n := by
  rw [BitVec.toNat_setWidth]
  exact Nat.lt_of_le_of_lt (Nat.mod_le _ _) v.isLt

theorem Pixel.data_lt (px : Pixel) : px.data.toNat < 2 ^ (8 * pixelBytes px.fmt) := by
  cases px with
  | a w => exact w.isLt
  | b h => exact toNat_setWidth_lt h

theorem readPixel_fmt (m : Memory) (a : Nat) (f : Format) : (readPixel m a f).fmt = f := by cases f <;> rfl

/-! ### What a command can answer past its operand check -/

/-- The responses a command can give once its operands are in format. -/
inductive Answer (i : Instr) (s : State) : Response → Prop
  /-- An error of a later check (R165). -/
  | error (e : Status) (hok : e ≠ .ok) (hoperand : e ≠ .errOperand) : Answer i s ⟨e, false, 0⟩
  /-- A result without the hit bit. -/
  | result (data : Word) (hdata : data.toNat < 2 ^ resultBits s i) : Answer i s ⟨.ok, false, data⟩
  /-- The hit of a point (R143, R144). -/
  | hit (data : Word) (hi : i.locatesPoint = true) : Answer i s ⟨.ok, true, data⟩

/-- Wherever the machine goes on with a response, the response is an answer of the command. -/
def Answers (i : Instr) (s : State) (k : Result) : Prop :=
  ∀ (t : State) (r : Response), k = .next t → t.phase = .responding r → Answer i s r

section
variable {i : Instr} {s : State}

theorem Answers.of_present {s' : State} {r : Response} (h : Answer i s r) : Answers i s (.next (s'.present r)) := by
  rintro t r' ⟨⟩ ⟨⟩
  exact h

theorem Answers.raise {s' : State} {e : Status} (hok : e ≠ .ok) (hoperand : e ≠ .errOperand) :
    Answers i s (s'.raise e) := .of_present (.error e hok hoperand)

theorem Answers.respond {s' : State} {data : Word} (h : data.toNat < 2 ^ resultBits s i) :
    Answers i s (s'.respond false data) := .of_present (.result data h)

theorem Answers.of_withSurface {k : Surface → Result} (h : ∀ d, s.surface = some d → Answers i s (k d)) :
    Answers i s (withSurface s k) := by
  cases hd : s.surface with
  | none => rw [withSurface_none k hd]; exact .raise nofun nofun
  | some d => rw [withSurface_some k hd]; exact h d hd

theorem Answers.of_checkIndex {idx : Word} {d : Surface} {k : Result} (h : Answers i s k) :
    Answers i s (checkIndex idx d s k) := by
  unfold checkIndex
  split
  · exact h
  · exact .raise nofun nofun

theorem Answers.of_loadPixel {a : Word} {f : Format} (h : resultBits s i = 8 * pixelBytes f) :
    Answers i s (loadPixel s a f) := by
  intro t r ht hr
  obtain ⟨-, rfl⟩ := loadPixel_next ht
  cases hr
  have hdata := (readPixel s.mem a.toNat f).data_lt
  rw [readPixel_fmt, ← h] at hdata
  exact .result _ hdata

theorem Answers.of_storePixel (a : Word) (px : Pixel) : Answers i s (storePixel s a px) := by
  intro t r ht hr
  obtain ⟨-, rfl⟩ := storePixel_next ht
  cases hr
  exact .result 0 (Nat.two_pow_pos _)

theorem Answers.of_drawPixel (policy : BoundsPolicy) (d : Surface) (x y : Int) (px : Pixel) :
    Answers i s (drawPixel policy d x y px s) := by
  unfold drawPixel
  split
  · exact .of_storePixel _ _
  · exact .respond (Nat.two_pow_pos _)

theorem Answers.of_setSurface (displayAlign : Nat) (d : Surface) : Answers i s (setSurface displayAlign d s) := by
  unfold setSurface
  split
  · exact .raise nofun nofun
  · split
    · exact .raise nofun nofun
    · exact .respond (Nat.two_pow_pos _)

theorem Answers.of_hit_or_miss (hi : i.locatesPoint = true) {b : Bool} (data : Word) :
    Answers i s (if b then s.respond true data else s.respond false 0) := by
  split
  · exact .of_present (.hit data hi)
  · exact .respond (Nat.two_pow_pos _)

end

/-- Every command is its operand check and then a meaning with the answers above (R57, R165). -/
theorem exec_checks_then_answers (i : Instr) (s : State) :
    ∃ k, exec i s = checkOperands (instrFormat i) (operandWords i) s k ∧ Answers i s k := by
  cases i with
  | surfSet p =>
    refine ⟨_, rfl, ?_⟩
    cases s.surface with
    | some d => exact .raise nofun nofun
    | none => exact .of_setSurface _ _
  | surfClr p => exact ⟨_, rfl, .of_withSurface fun _ _ => .respond (Nat.two_pow_pos _)⟩
  | surfBase p | surfCount p | surfAttr p => exact ⟨_, rfl, .of_withSurface fun _ _ => .respond (BitVec.isLt _)⟩
  | surfWidth p | surfHeight p => exact ⟨_, rfl, .of_withSurface fun _ _ => .respond (toNat_setWidth_lt _)⟩
  | surfOffs p | surfAddr p => exact ⟨_, rfl, .of_withSurface fun _ _ => .of_hit_or_miss rfl _⟩
  | surfLoad p =>
    exact ⟨_, rfl, .of_withSurface fun d hd => .of_checkIndex (.of_loadPixel (resultBits_surfLoad hd p))⟩
  | drawA p | drawB p => exact ⟨_, rfl, .of_withSurface fun _ _ => .of_drawPixel _ _ _ _ _⟩
  | storeA p | storeB p => exact ⟨_, rfl, .of_withSurface fun _ _ => .of_checkIndex (.of_storePixel _ _)⟩
  | packA | cvtBA | gammaA | constABlack | constARed | constAGreen | constABlue | constAYellow | constAMagenta
  | constACyan | constAWhite => exact ⟨_, rfl, .respond (BitVec.isLt _)⟩
  | _ => exact ⟨_, rfl, .respond (toNat_setWidth_lt _)⟩

/-- The operand check of R57, word by word. -/
theorem inFormat_eq_false_iff {f : OperandFormat} {p : Operands} :
    inFormat f p = false ↔
      p.p0 &&& ~~~(formatMask f).p0 ≠ 0 ∨ p.p1 &&& ~~~(formatMask f).p1 ≠ 0 ∨
        p.p2 &&& ~~~(formatMask f).p2 ≠ 0 ∨ p.p3 &&& ~~~(formatMask f).p3 ≠ 0 := by
  simp only [← Bool.not_eq_true, inFormat, Bool.and_eq_true, fits_iff, not_and_or, or_assoc, ne_eq]

theorem exec_out_of_format {i : Instr} (s : State) (hf : inFormat (instrFormat i) (operandWords i) = false) :
    exec i s = .next (s.erred .errOperand) := by
  obtain ⟨k, hexec, -⟩ := exec_checks_then_answers i s
  rw [hexec, checkOperands_neg s k hf, State.raise_eq]

theorem exec_in_format {i : Instr} (s : State) (hf : inFormat (instrFormat i) (operandWords i) = true) :
    Answers i s (exec i s) := by
  obtain ⟨k, hexec, hk⟩ := exec_checks_then_answers i s
  rwa [hexec, checkOperands_pos s k hf]

/-- A command answers `ERR_OPERAND`, or what it can answer past its operand check. -/
theorem exec_answer {i : Instr} {s t : State} {r : Response} (h : exec i s = .next t) (hr : t.phase = .responding r) :
    r = ⟨.errOperand, false, 0⟩ ∨ Answer i s r := by
  cases hf : inFormat (instrFormat i) (operandWords i) with
  | true => exact .inr (exec_in_format s hf t r h hr)
  | false =>
    rw [exec_out_of_format s hf] at h
    cases h
    cases hr
    exact .inl rfl

theorem exec_flag {i : Instr} {s t : State} {r : Response} (h : exec i s = .next t) (hr : t.phase = .responding r)
    (hflag : r.flag = true) : r.status = .ok ∧ i.locatesPoint = true := by
  rcases exec_answer h hr with rfl | hanswer
  · cases hflag
  · cases hanswer with
    | error | result => cases hflag
    | hit data hi => exact ⟨rfl, hi⟩

/-- The data of a response without the hit bit are zero-extended from the width of the command's result (R53). -/
theorem exec_data_lt_of_flag {i : Instr} {s t : State} {r : Response} (h : exec i s = .next t)
    (hr : t.phase = .responding r) (hflag : r.flag = false) : r.data.toNat < 2 ^ resultBits s i := by
  rcases exec_answer h hr with rfl | hanswer
  · exact Nat.two_pow_pos _
  · cases hanswer with
    | error => exact Nat.two_pow_pos _
    | result data hdata => exact hdata
    | hit => cases hflag

theorem exec_data_lt {i : Instr} {s t : State} {r : Response} (h : exec i s = .next t)
    (hr : t.phase = .responding r) (hi : i.locatesPoint = false) : r.data.toNat < 2 ^ resultBits s i := by
  refine exec_data_lt_of_flag h hr (Bool.eq_false_iff.2 fun hflag => ?_)
  exact Bool.eq_false_iff.1 hi (exec_flag h hr hflag).2

/-! ### The transfer of a response (R51) -/

/-- The response that a host takes leaves nothing in the block: the step does the same whichever response it was (R53). -/
theorem step_responding_taken {s : State} {pins : Pins} {rest : List Input} (hin : s.inputs = .cycle pins :: rest)
    (hready : pins.rspReady = true) (r r' : Response) :
    step { s with phase := .responding r } = step { s with phase := .responding r' } := by
  rw [step_cons (s := { s with phase := .responding r }) hin, step_cons (s := { s with phase := .responding r' }) hin]
  simp only [react]
  cases hrst : pins.rst with
  | true => rw [clock_reset hrst, clock_reset hrst]; rfl
  | false => rw [clock_responding_taken hrst rfl hready, clock_responding_taken hrst rfl hready]; rfl

end Sys2Proof.Machine
end

section
/-! The statements about the operand check and the fields of a response. -/

namespace Sys2Proof.Machine

/-- Settles O4: a command is its operand check and then a meaning that never answers `ERR_OPERAND`. -/
theorem operandCheckComesFirst : Obligations.OperandCheckComesFirst := by
  intro i s
  split
  case isTrue hf => exact exec_out_of_format s (inFormat_eq_false_iff.2 hf)
  case isFalse hf =>
    intro t r h hr
    have hin := Bool.eq_true_of_not_eq_false (mt inFormat_eq_false_iff.1 hf)
    cases exec_in_format s hin t r h hr with
    | error e hok hoperand => exact hoperand
    | result | hit => nofun

/-- Settles O44: each clause is the flag or the width of the result that the command can answer. -/
theorem flagAndDataOfResponses : Obligations.FlagAndDataOfResponses := by
  refine ⟨fun i s t r h hr => ?_, fun s r r' pins rest hin hready => step_responding_taken hin hready r r'⟩
  have hwidth : ∀ n, i.locatesPoint = false ∧ resultBits s i = n → r.data.toNat < 2 ^ n := by
    rintro n ⟨hi, rfl⟩
    exact exec_data_lt h hr hi
  refine ⟨fun hflag => (exec_flag h hr hflag).imp_right Instr.eq_of_locatesPoint,
    fun hne => ((exec_effect h).response_legal r hr hne).2,
    fun hop => BitVec.eq_of_toNat_eq (Nat.lt_one_iff.1 (hwidth 0 (resultBits_of_set_clr_pix s hop))), ?_, ?_, ?_, ?_, ?_⟩
  · rintro ⟨p, rfl | rfl⟩ hflag <;> exact BitVec.eq_of_toNat_eq (Nat.lt_one_iff.1 (exec_data_lt_of_flag h hr hflag))
  · rintro ⟨p, rfl | rfl | rfl | rfl⟩ <;> exact hwidth 8 ⟨rfl, rfl⟩
  · rintro ⟨p, rfl | rfl | rfl⟩ <;> exact hwidth 5 ⟨rfl, rfl⟩
  · rintro ⟨p, rfl⟩
    exact hwidth 1 ⟨rfl, rfl⟩
  · rintro (⟨p, hi⟩ | hop | ⟨p, d, rfl, hd, hf⟩)
    · rcases hi with rfl | rfl | rfl | rfl | rfl <;> exact hwidth 16 ⟨rfl, rfl⟩
    · exact hwidth 16 (resultBits_of_constB s hop)
    · refine hwidth 16 ⟨rfl, ?_⟩
      rw [resultBits_surfLoad hd, Surface.psize, hf]
      rfl

end Sys2Proof.Machine
end

section
/-! SUPPORT. The ports: what they show, the step that executes a command, and the independence of a command from the ports
and the waiting inputs. -/

namespace Sys2Proof.Machine

/-! ### What the block shows on its ports (R63) -/

theorem State.response_eq_some_iff {s : State} {r : Response} : s.response = some r ↔ s.phase = .responding r := by
  unfold State.response
  cases s.phase <;> simp

theorem State.cmdReady_iff {s : State} : s.cmdReady = true ↔ s.phase = .idle := isIdle_iff

theorem State.rspValid_iff {s : State} : s.rspValid = true ↔ ∃ r, s.phase = .responding r := by
  simp only [State.rspValid, Option.isSome_iff_exists, State.response_eq_some_iff]

theorem State.rspFields_eq {s : State} {r : Response} (h : s.phase = .responding r) :
    s.rspFields = some (statusCode r.status, r.flag, r.data) := by
  rw [State.rspFields, State.response_eq_some_iff.2 h, Option.map_some]

/-! ### The step that executes a command (R51) -/

theorem step_executing {s : State} {w : Command} (hphase : s.phase = .executing w)
    (hin : s.inputs = [] ∨ ∃ pins rest, s.inputs = .cycle pins :: rest ∧ pins.rst = false) :
    step s = executeCommand w s.consumed := by
  rcases hin with hnil | ⟨pins, rest, hcons, hrst⟩
  · exact (step_nil hnil).trans (clock_executing rfl hphase)
  · rw [step_cons hcons, State.consumed, hcons, List.tail_cons]
    exact clock_executing hrst hphase

theorem Effect.responds {i : Instr} {s t : State} (h : Effect i s t) : ∃ r, t.phase = .responding r := by
  cases h <;> exact ⟨_, rfl⟩

theorem executeCommand_inputs {w : Command} {s t : State} (h : executeCommand w s = .next t) : t.inputs = s.inputs := by
  cases hw : decode w with
  | ok i => rw [executeCommand_ok hw] at h; exact (exec_effect h).inputs_eq
  | error e => rw [executeCommand_error hw] at h; cases h; rfl

theorem executeCommand_next_responds {w : Command} {s t : State} (h : executeCommand w s = .next t) :
    ∃ r, t.phase = .responding r := by
  cases hw : decode w with
  | ok i => rw [executeCommand_ok hw] at h; exact (exec_effect h).responds
  | error e => rw [executeCommand_error hw] at h; cases h; exact ⟨_, rfl⟩

/-- On a legal surface, and without one, every command responds. -/
theorem executeCommand_responds (w : Command) {s : State} (hl : ∀ d, s.surface = some d → d.Legal) :
    ∃ (t : State) (r : Response), executeCommand w s = .next t ∧ t.phase = .responding r := by
  obtain ⟨t, ht⟩ := completes_executeCommand w hl
  obtain ⟨r, hr⟩ := executeCommand_next_responds ht
  exact ⟨t, r, ht, hr⟩

/-! ### What a command does depends on the descriptor and memory alone -/

/-- The descriptor and memory of a state, the ports at rest and no input waiting. -/
def State.atRest (s : State) : State := { State.reset with surface := s.surface, mem := s.mem }

@[simp] theorem State.atRest_surface (s : State) : s.atRest.surface = s.surface := rfl
@[simp] theorem State.atRest_mem (s : State) : s.atRest.mem = s.mem := rfl

/-- An outcome over the ports and inputs of `s`: its accesses come after those already recorded. -/
def overPorts (s : State) : Result → Result
  | .next t => .next { t with bus := s.bus ++ t.bus, inputs := s.inputs }
  | .fault f => .fault f
  | .refused r => .refused r

section
variable {s : State}

theorem overPorts_present (d : Option Surface) (r : Response) :
    overPorts s (.next (State.present { s.atRest with surface := d } r)) = .next (State.present { s with surface := d } r) := by
  simp [overPorts, State.present, State.atRest, State.reset]

theorem overPorts_raise (e : Status) : overPorts s (s.atRest.raise e) = s.raise e := overPorts_present s.surface _

theorem overPorts_respond (flag : Bool) (data : Word) : overPorts s (s.atRest.respond flag data) = s.respond flag data :=
  overPorts_present s.surface _

theorem overPorts_checkOperands {f : OperandFormat} {p : Operands} {k k' : Result} (h : overPorts s k' = k) :
    overPorts s (checkOperands f p s.atRest k') = checkOperands f p s k := by
  unfold checkOperands
  split
  · exact h
  · exact overPorts_raise _

theorem overPorts_withSurface {k k' : Surface → Result} (h : ∀ d, overPorts s (k' d) = k d) :
    overPorts s (withSurface s.atRest k') = withSurface s k := by
  cases hd : s.surface with
  | none => rw [withSurface_none k hd, withSurface_none (s := s.atRest) k' hd]; exact overPorts_raise _
  | some d => rw [withSurface_some k hd, withSurface_some (s := s.atRest) k' hd]; exact h d

theorem overPorts_checkIndex {idx : Word} {d : Surface} {k k' : Result} (h : overPorts s k' = k) :
    overPorts s (checkIndex idx d s.atRest k') = checkIndex idx d s k := by
  unfold checkIndex
  split
  · exact h
  · exact overPorts_raise _

theorem overPorts_loadPixel (a : Word) (f : Format) : overPorts s (loadPixel s.atRest a f) = loadPixel s a f := by
  unfold loadPixel
  split <;> rfl

theorem overPorts_storePixel (a : Word) (px : Pixel) : overPorts s (storePixel s.atRest a px) = storePixel s a px := by
  unfold storePixel
  split <;> rfl

theorem overPorts_drawPixel (policy : BoundsPolicy) (d : Surface) (x y : Int) (px : Pixel) :
    overPorts s (drawPixel policy d x y px s.atRest) = drawPixel policy d x y px s := by
  unfold drawPixel
  split
  · exact overPorts_storePixel _ _
  · exact overPorts_respond _ _

theorem overPorts_locatePoint (policy : BoundsPolicy) (p : Operands) (answer : Surface → Int → Int → Word) :
    overPorts s (locatePoint policy p s.atRest answer) = locatePoint policy p s answer :=
  overPorts_checkOperands <| overPorts_withSurface fun d => by split <;> exact overPorts_respond _ _

theorem overPorts_queryDescriptor (p : Operands) (answer : Surface → Word) :
    overPorts s (queryDescriptor p s.atRest answer) = queryDescriptor p s answer :=
  overPorts_checkOperands <| overPorts_withSurface fun _ => overPorts_respond _ _

theorem overPorts_setSurface (displayAlign : Nat) (d : Surface) :
    overPorts s (setSurface displayAlign d s.atRest) = setSurface displayAlign d s := by
  unfold setSurface
  split
  · exact overPorts_raise _
  · split
    · exact overPorts_raise _
    · exact overPorts_present (some d) _

theorem overPorts_surfSetOver (displayAlign : Nat) (p : Operands) :
    overPorts s (surfSetOver displayAlign p s.atRest) = surfSetOver displayAlign p s :=
  overPorts_checkOperands <| by
    rw [State.atRest_surface]
    cases s.surface with
    | none => exact overPorts_setSurface _ _
    | some d => exact overPorts_raise _

end

/-- A command reads neither the phase, nor the record of accesses, nor the inputs (R51). -/
theorem overPorts_exec (i : Instr) (s : State) : overPorts s (exec i s.atRest) = exec i s := by
  cases i with
  | surfSet p => exact overPorts_surfSetOver _ _
  | surfClr p => exact overPorts_checkOperands <| overPorts_withSurface fun _ => overPorts_present none _
  | surfBase p | surfWidth p | surfHeight p | surfCount p | surfAttr p => exact overPorts_queryDescriptor _ _
  | surfOffs p => exact overPorts_locatePoint Config.boundsPolicy p fun d x y => BitVec.ofNat 32 (d.offset x y)
  | surfAddr p => exact overPorts_locatePoint Config.boundsPolicy p _
  | surfLoad p =>
    exact overPorts_checkOperands <| overPorts_withSurface fun _ => overPorts_checkIndex <| overPorts_loadPixel _ _
  | drawA p | drawB p =>
    exact overPorts_checkOperands <| overPorts_withSurface fun _ => overPorts_drawPixel _ _ _ _ _
  | storeA p | storeB p =>
    exact overPorts_checkOperands <| overPorts_withSurface fun _ => overPorts_checkIndex <| overPorts_storePixel _ _
  | _ => exact overPorts_checkOperands (overPorts_respond _ _)

theorem overPorts_executeCommand (w : Command) (s : State) :
    overPorts s (executeCommand w s.atRest) = executeCommand w s := by
  cases hw : decode w with
  | ok i => rw [executeCommand_ok hw, executeCommand_ok hw]; exact overPorts_exec i s
  | error e => rw [executeCommand_error hw, executeCommand_error hw]; exact overPorts_raise _

/-- Over another state with the same descriptor and memory, a command responds alike and leaves the same descriptor and
memory. -/
theorem executeCommand_next_congr {w : Command} {s s' t : State} (h : executeCommand w s = .next t)
    (hrest : s'.atRest = s.atRest) :
    ∃ t', executeCommand w s' = .next t' ∧ t'.phase = t.phase ∧ t'.surface = t.surface ∧ t'.mem = t.mem := by
  rw [← overPorts_executeCommand, hrest]
  rw [← overPorts_executeCommand] at h
  cases hexec : executeCommand w s.atRest with
  | next u => rw [hexec] at h; cases h; exact ⟨_, rfl, rfl, rfl, rfl⟩
  | fault | refused => rw [hexec] at h; cases h

/-! ### The steps of one command (R51) -/

theorem step_transfer {s : State} {pins : Pins} {rest : List Input} {w : Command} (hin : s.inputs = .cycle pins :: rest)
    (hrst : pins.rst = false) (hidle : s.phase = .idle) (hcmd : pins.cmd = some w) :
    step s = .next (State.accept { s with inputs := rest } w) := by
  rw [step_cons hin]
  exact clock_idle_some hrst hidle hcmd

theorem step_taken {s : State} {pins : Pins} {rest : List Input} {r : Response} (hin : s.inputs = .cycle pins :: rest)
    (hrst : pins.rst = false) (hphase : s.phase = .responding r) (hready : pins.rspReady = true) :
    step s = .next (State.takeResponse { s with inputs := rest }) := by
  rw [step_cons hin]
  exact clock_responding_taken hrst hphase hready

theorem run_succ {s t : State} (k : Nat) (h : step s = .next t) :
    Host.Core.run core (k + 1) s = Host.Core.run core k t := by
  have hcore : core.step s = .next t := h
  simp only [Host.Core.run, hcore]

/-- From the transfer on: the command executes, and then its response is taken. -/
theorem run_executing {s t : State} {w : Command} {r : Response} {p1 p2 : Pins} {rest : List Input}
    (hphase : s.phase = .executing w) (hin : s.inputs = .cycle p1 :: .cycle p2 :: rest)
    (hrst1 : p1.rst = false) (hrst2 : p2.rst = false) (hready : p2.rspReady = true)
    (hexec : executeCommand w s.consumed = .next t) (hr : t.phase = .responding r) :
    Host.Core.run core 1 s = .next t ∧
      Host.Core.run core 2 s = .next (State.takeResponse { t with inputs := rest }) := by
  have hexecute : step s = .next t := (step_executing hphase (.inr ⟨p1, _, hin, hrst1⟩)).trans hexec
  have hinputs : t.inputs = .cycle p2 :: rest := by
    rw [executeCommand_inputs hexec, State.consumed_inputs, hin, List.tail_cons]
  exact ⟨run_succ 0 hexecute, (run_succ 1 hexecute).trans (run_succ 0 (step_taken hinputs hrst2 hr hready))⟩

end Sys2Proof.Machine
end

section
/-! The statements about the handshake of the ports. -/

namespace Sys2Proof.Machine

/-- Settles O45: `cmd_ready` and `rsp_valid` are high in different phases. -/
theorem statusCodesAndReadySignals : Obligations.StatusCodesAndReadySignals := by
  refine ⟨rfl, fun s => ⟨State.cmdReady_iff, State.rspValid_iff, ?_, fun r hr => State.rspFields_eq hr⟩⟩
  rintro ⟨hready, hvalid⟩
  obtain ⟨r, hr⟩ := State.rspValid_iff.1 hvalid
  rw [State.cmdReady_iff.1 hready] at hr
  cases hr

/-- Settles O46: the clock of an idle block and of one with a response, by the pin that decides the transfer. -/
theorem handshakeOfThePorts : Obligations.HandshakeOfThePorts := by
  intro s pins rest hin hrst
  exact ⟨fun hidle => ⟨fun w hcmd => step_transfer hin hrst hidle hcmd,
      fun hcmd => (step_cons hin).trans (clock_idle_none hrst hidle hcmd)⟩,
    fun r hr => ⟨fun hready => step_taken hin hrst hr hready,
      fun hheld => (step_cons hin).trans (clock_responding_held hrst hr hheld)⟩⟩

/-- Settles O48: the step executes the command, and on a legal descriptor every command responds. -/
theorem acceptedCommandResponds : Obligations.AcceptedCommandResponds := by
  intro s w hs hphase hin
  rw [step_executing hphase hin]
  exact executeCommand_responds w hs.consumed.surface_legal

/-- Settles O47: after its transfer the command executes over the descriptor and memory it was transferred with, and its
response is then taken. -/
theorem eachCommandGetsOneResponse : Obligations.EachCommandGetsOneResponse := by
  intro s w p0 p1 p2 rest hs hidle hin hrst0 hrst1 hrst2 hcmd hready
  obtain ⟨u, r, hu, hr⟩ := executeCommand_responds w hs.surface_legal
  have htransfer := step_transfer hin hrst0 hidle hcmd
  obtain ⟨v, hv, hphase, hsurface, hmem⟩ := executeCommand_next_congr
    (s' := State.consumed (State.accept { s with inputs := .cycle p1 :: .cycle p2 :: rest } w)) hu rfl
  obtain ⟨hrun1, hrun2⟩ := run_executing rfl rfl hrst1 hrst2 hready hv (hphase.trans hr)
  exact ⟨u, _, r, hu, hr, (run_succ 2 htransfer).trans hrun2, ⟨v, (run_succ 1 htransfer).trans hrun1, hphase.trans hr⟩,
    rfl, hsurface, hmem, rfl⟩

end Sys2Proof.Machine
end

section
/-! SUPPORT. The pixels of a surface under a pixel write, and the two commands that read a point back. -/

namespace Sys2Proof.Machine

/-! ### The pixels of a legal surface (R33, R147) -/

/-- What a pixel reads as is settled by the bytes it covers. -/
theorem readPixel_congr {m m' : Memory} {a : Nat} {f : Format}
    (h : ∀ n < pixelBytes f, readByte m' (a + n) = readByte m (a + n)) : readPixel m' a f = readPixel m a f := by
  have hfirst : readByte m' a = readByte m a := h 0 (by cases f <;> decide)
  cases f with
  | a => simp only [readPixel, hfirst, h 1 (by decide), h 2 (by decide), h 3 (by decide)]
  | b => simp only [readPixel, hfirst, h 1 (by decide)]

theorem Surface.Legal.pixelAddr_add_le {d : Surface} (h : d.Legal) {k : Nat} (hk : k < d.count) {px : Pixel}
    (hp : px.fmt = d.fmt) : (d.pixelAddr k).toNat + pixelBytes px.fmt ≤ 2 ^ 32 := by
  obtain ⟨hto, hend⟩ := h.pixelAddr_toNat hk
  rw [hto, hp]
  exact hend.trans h.2

/-- The pixels of a legal surface do not overlap: of two, one ends before the other begins. -/
theorem Surface.Legal.pixels_disjoint {d : Surface} (h : d.Legal) {j k : Nat} (hj : j < d.count) (hk : k < d.count)
    (hne : k ≠ j) :
    (d.pixelAddr k).toNat + d.psize ≤ (d.pixelAddr j).toNat ∨ (d.pixelAddr j).toNat + d.psize ≤ (d.pixelAddr k).toNat := by
  rw [(h.pixelAddr_toNat hj).1, (h.pixelAddr_toNat hk).1]
  have hends : ∀ {l n : Nat}, l < n → l * d.psize + d.psize ≤ n * d.psize := fun {l n} hlt => by
    rw [← Nat.succ_mul]
    exact Nat.mul_le_mul_right d.psize hlt
  rcases Nat.lt_or_gt_of_ne hne with hlt | hgt
  · have := hends hlt
    omega
  · have := hends hgt
    omega

/-- After a write of pixel `j` of a legal surface, pixel `j` is the one written and every other pixel is as before. -/
theorem Surface.Legal.pixelAt_writePixel {d : Surface} (h : d.Legal) {m : Memory} (hm : m.wf = true) {j k : Nat}
    (hj : j < d.count) (hk : k < d.count) {px : Pixel} (hp : px.fmt = d.fmt) :
    d.pixelAt (writePixel m (d.pixelAddr j).toNat px) k = if k = j then px else d.pixelAt m k := by
  have hspace := h.pixelAddr_add_le hj hp
  split
  case isTrue heq =>
    rw [heq, Surface.pixelAt, ← hp]
    exact readPixel_writePixel m _ px hspace hm
  case isFalse hne =>
    refine readPixel_congr fun n hn => readByte_writePixel_outside m _ _ px hspace hm ?_
    have hdisjoint := h.pixels_disjoint hj hk hne
    rw [hp]
    simp only [Surface.psize] at hdisjoint
    omega

/-! ### Drawing a point and reading it back (R143, R146, R148) -/

section
variable {s : State} {d : Surface}

theorem inFormat_xy {p : Operands} : inFormat .xy p = true ↔ p.p2 = 0 ∧ p.p3 = 0 := by
  simp only [inFormat, formatMask, Bool.and_eq_true, fits_ones, fits_zero, true_and]

theorem exec_surfOffs_hit {x y : Word} (hd : s.surface = some d) (hb : inBounds .strict d x.toInt y.toInt = true) :
    exec (.surfOffs ⟨x, y, 0, 0⟩) s =
      .next (s.present ⟨.ok, true, BitVec.ofNat 32 (d.offset x.toInt y.toInt)⟩) :=
  (checkOperands_pos s _ (inFormat_xy.2 ⟨rfl, rfl⟩)).trans ((withSurface_some _ hd).trans (if_pos hb))

theorem Surface.Legal.exec_surfLoad {idx : Word} (h : d.Legal) (hd : s.surface = some d) (hk : idx.toNat < d.count) :
    exec (.surfLoad ⟨idx, 0, 0, 0⟩) s = .next ((s.requestRead (d.pixelAddr idx.toNat) d.psize).present
      ⟨.ok, false, (d.pixelAt s.mem idx.toNat).data⟩) :=
  (exec_surfLoad_index hd (inFormat_idx.2 ⟨rfl, rfl, rfl⟩) hk).trans (loadPixel_aligned s (h.aligned_pixelAddr hk))

theorem Surface.Legal.exec_drawA_hit {x y c : Word} (h : d.Legal) (hd : s.surface = some d)
    (hb : inBounds .strict d x.toInt y.toInt = true) :
    exec (.drawA ⟨x, y, c, 0⟩) s =
      .next ((s.requestWrite (d.pixelAddr (d.offset x.toInt y.toInt)) (nativeA c d.fmt)).present ⟨.ok, false, 0⟩) := by
  have haligned : aligned (d.pixelAddr (d.offset x.toInt y.toInt)) (nativeA c d.fmt).fmt = true := by
    rw [nativeA_fmt]
    exact h.aligned_pixelAddr (offset_lt_count hb)
  exact (Machine.exec_drawA_hit hd (inFormat_xyc32.2 rfl) hb).trans (storePixel_aligned s haligned)

/-- The offset of a hit fits the data word of the response that carries it. -/
theorem offset_toNat {x y : Int} (hb : inBounds .strict d x y = true) :
    (BitVec.ofNat 32 (d.offset x y)).toNat = d.offset x y := by
  have hcount := d.count_le
  have hoffset := offset_lt_count hb
  rw [BitVec.toNat_ofNat]
  exact Nat.mod_eq_of_lt (by omega)

/-- `GETPIXEL` of a hit answers the pixel at the point (R62). -/
theorem Surface.Legal.getPixel_hit {x y : Word} (h : d.Legal) (hd : s.surface = some d)
    (hb : inBounds .strict d x.toInt y.toInt = true) :
    ∃ u, getPixel x y s = .next u ∧
      u.phase = .responding ⟨.ok, false, (d.pixelAt s.mem (d.offset x.toInt y.toInt)).data⟩ := by
  have hoffset := offset_toNat hb
  have hload := h.exec_surfLoad (s := s.present ⟨.ok, true, BitVec.ofNat 32 (d.offset x.toInt y.toInt)⟩) hd
    (hoffset.trans_lt (offset_lt_count hb))
  rw [hoffset] at hload
  exact ⟨_, by rw [getPixel, exec_surfOffs_hit hd hb]; exact hload, rfl⟩

end

end Sys2Proof.Machine
end

section
/-! The statement about reading a drawn point back. -/

namespace Sys2Proof.Machine

/-- Settles O35: the draw writes the pixel that `GETPIXEL` reads, and the pixels of a surface do not overlap. -/
theorem getPixelAnswersTheDrawnColour : Obligations.GetPixelAnswersTheDrawnColour := by
  intro s t d x y c hd hl hm hb h
  rw [hl.exec_drawA_hit hd hb] at h
  cases h
  have hpixel := fun k hk => hl.pixelAt_writePixel hm (offset_lt_count hb) (k := k) hk (nativeA_fmt c d.fmt)
  refine ⟨?_, fun k hk hne => (hpixel k hk).trans (if_neg hne)⟩
  obtain ⟨u, hu, hphase⟩ := hl.getPixel_hit (s := State.present (s.requestWrite _ _) _) hd hb
  refine ⟨u, hu, ?_⟩
  rw [hphase, State.present_mem, State.requestWrite_mem, hpixel _ (offset_lt_count hb), if_pos rfl]

end Sys2Proof.Machine
end

section
/-! SUPPORT. The colour words: their channels as arithmetic on natural numbers, the two layouts of R70 as inverse pairs, and
what a command answers whose meaning is one word. -/

namespace Sys2Proof.Machine

/-! ### The channels of a word (R70) -/

theorem redA_toNat (w : Word) : (redA w).toNat = w.toNat / 2 ^ 24 := by
  rw [redA, BitVec.extractLsb'_toNat, Nat.shiftRight_eq_div_pow]
  exact Nat.mod_eq_of_lt (Nat.div_lt_of_lt_mul w.isLt)

theorem greenA_toNat (w : Word) : (greenA w).toNat = w.toNat / 2 ^ 16 % 256 := by
  rw [greenA, BitVec.extractLsb'_toNat, Nat.shiftRight_eq_div_pow]

theorem blueA_toNat (w : Word) : (blueA w).toNat = w.toNat / 2 ^ 8 % 256 := by
  rw [blueA, BitVec.extractLsb'_toNat, Nat.shiftRight_eq_div_pow]

theorem alphaA_toNat (w : Word) : (alphaA w).toNat = w.toNat % 256 := by
  rw [alphaA, BitVec.extractLsb'_toNat, Nat.shiftRight_zero]

theorem redB_toNat (w : Half) : (redB w).toNat = w.toNat / 2 ^ 11 := by
  rw [redB, BitVec.extractLsb'_toNat, Nat.shiftRight_eq_div_pow]
  exact Nat.mod_eq_of_lt (Nat.div_lt_of_lt_mul w.isLt)

theorem greenB_toNat (w : Half) : (greenB w).toNat = w.toNat / 2 ^ 6 % 32 := by
  rw [greenB, BitVec.extractLsb'_toNat, Nat.shiftRight_eq_div_pow]

theorem blueB_toNat (w : Half) : (blueB w).toNat = w.toNat / 2 % 32 := by
  rw [blueB, BitVec.extractLsb'_toNat, Nat.shiftRight_eq_div_pow, Nat.pow_one]

theorem alphaB_toNat (w : Half) : (alphaB w).toNat = w.toNat % 2 := by
  rw [alphaB, BitVec.extractLsb'_toNat, Nat.shiftRight_zero]

/-! ### Construction and extraction (R82) -/

@[simp] theorem channels_packWordA (r g b a : Byte) :
    redA (packWordA r g b a) = r ∧ greenA (packWordA r g b a) = g ∧
      blueA (packWordA r g b a) = b ∧ alphaA (packWordA r g b a) = a := by
  have hr := r.isLt; have hg := g.isLt; have hb := b.isLt; have ha := a.isLt
  simp only [← BitVec.toNat_inj, redA_toNat, greenA_toNat, blueA_toNat, alphaA_toNat, packWordA_toNat]
  omega

@[simp] theorem channels_packWordB (r g b : BitVec 5) (a : BitVec 1) :
    redB (packWordB r g b a) = r ∧ greenB (packWordB r g b a) = g ∧
      blueB (packWordB r g b a) = b ∧ alphaB (packWordB r g b a) = a := by
  have hr := r.isLt; have hg := g.isLt; have hb := b.isLt; have ha := a.isLt
  simp only [← BitVec.toNat_inj, redB_toNat, greenB_toNat, blueB_toNat, alphaB_toNat, packWordB_toNat]
  omega

@[simp] theorem packWordA_channels (w : Word) : packWordA (redA w) (greenA w) (blueA w) (alphaA w) = w := by
  refine BitVec.eq_of_toNat_eq ?_
  rw [packWordA_toNat, redA_toNat, greenA_toNat, blueA_toNat, alphaA_toNat]
  omega

@[simp] theorem packWordB_channels (w : Half) : packWordB (redB w) (greenB w) (blueB w) (alphaB w) = w := by
  refine BitVec.eq_of_toNat_eq ?_
  rw [packWordB_toNat, redB_toNat, greenB_toNat, blueB_toNat, alphaB_toNat]
  omega

/-! ### The operand formats of the colour commands (R56) -/

section
variable {f : OperandFormat} {p : Operands} {k : Nat}

theorem inFormat_ch8 : inFormat .ch8 p = true ↔
    p.p0.toNat < 256 ∧ p.p1.toNat < 256 ∧ p.p2.toNat < 256 ∧ p.p3.toNat < 256 := by
  simp only [inFormat, formatMask, Bool.and_eq_true, fits_0xFF, and_assoc]

theorem inFormat_ch5 : inFormat .ch5 p = true ↔
    p.p0.toNat < 32 ∧ p.p1.toNat < 32 ∧ p.p2.toNat < 32 ∧ p.p3.toNat < 2 := by
  simp only [inFormat, formatMask, Bool.and_eq_true, fits_0x1F, fits_0x01, and_assoc]

/-- W32 and IDX have the same masks: one operand word, every bit of it used. -/
theorem inFormat_w32 : inFormat .w32 p = true ↔ p.p1 = 0 ∧ p.p2 = 0 ∧ p.p3 = 0 := inFormat_idx

theorem inFormat_w16 : inFormat .w16 p = true ↔ p.p0.toNat < 2 ^ 16 ∧ p.p1 = 0 ∧ p.p2 = 0 ∧ p.p3 = 0 := by
  simp only [inFormat, formatMask, Bool.and_eq_true, fits_0xFFFF, fits_zero, and_assoc]

theorem inFormat_false_of_not {c : Prop} (hiff : inFormat f p = true ↔ c) (hc : ¬ c) : inFormat f p = false :=
  Bool.eq_false_iff.2 (mt hiff.1 hc)

/-! ### The operands in format, read out of their words -/

theorem half_toNat_of_lt {w : Word} (h : w.toNat < 2 ^ 16) : (half w).toNat = w.toNat :=
  (half_toNat w).trans (Nat.mod_eq_of_lt h)

theorem packWordA_operands_toNat (hf : inFormat .ch8 p = true) :
    (packWordA (chan8 p.p0) (chan8 p.p1) (chan8 p.p2) (chan8 p.p3)).toNat =
      p.p0.toNat * 2 ^ 24 + p.p1.toNat * 2 ^ 16 + p.p2.toNat * 2 ^ 8 + p.p3.toNat := by
  obtain ⟨hr, hg, hb, ha⟩ := inFormat_ch8.1 hf
  simp only [packWordA_toNat, chan8_toNat, Nat.mod_eq_of_lt hr, Nat.mod_eq_of_lt hg, Nat.mod_eq_of_lt hb,
    Nat.mod_eq_of_lt ha]

theorem packWordB_operands_toNat (hf : inFormat .ch5 p = true) :
    (packWordB (chan5 p.p0) (chan5 p.p1) (chan5 p.p2) (chan1 p.p3)).toNat =
      p.p0.toNat * 2 ^ 11 + p.p1.toNat * 2 ^ 6 + p.p2.toNat * 2 + p.p3.toNat := by
  obtain ⟨hr, hg, hb, ha⟩ := inFormat_ch5.1 hf
  simp only [packWordB_toNat, chan5_toNat, chan1_toNat, Nat.mod_eq_of_lt hr, Nat.mod_eq_of_lt hg, Nat.mod_eq_of_lt hb,
    Nat.mod_eq_of_lt ha]

/-! ### The answer of a command in format -/

/-- A result narrower than the data word is zero-extended, so it is the same number (R53). -/
theorem checkOperands_respond_setWidth {n : Nat} {v : BitVec n} (s : State) (hf : inFormat f p = true)
    (hv : v.toNat = k) :
    checkOperands f p s (s.respond false (v.setWidth 32)) = .next (s.present ⟨.ok, false, BitVec.ofNat 32 k⟩) := by
  rw [checkOperands_pos s _ hf, State.respond_eq, ← BitVec.ofNat_toNat, hv]

theorem checkOperands_respond_word {v : Word} (s : State) (hf : inFormat f p = true) (hv : v.toNat = k) :
    checkOperands f p s (s.respond false v) = .next (s.present ⟨.ok, false, BitVec.ofNat 32 k⟩) := by
  rw [← checkOperands_respond_setWidth s hf hv, BitVec.setWidth_eq]

end

end Sys2Proof.Machine
end

section
/-! The statements about packing and extracting the channels of a colour. -/

namespace Sys2Proof.Machine

/-- Settles O6: past the operand check the channels are the operand words, and the packed word is their weighted sum. -/
theorem packBuildsThePackedWord : Obligations.PackBuildsThePackedWord := by
  intro s p
  refine ⟨decode_encode (.packA p), ?_, decode_encode (.packB p), ?_⟩
  · split
    case isTrue h =>
      have hf := inFormat_ch8.2 h
      exact checkOperands_respond_word s hf (packWordA_operands_toNat hf)
    case isFalse h => exact exec_out_of_format s (inFormat_false_of_not inFormat_ch8 h)
  · split
    case isTrue h =>
      have hf := inFormat_ch5.2 h
      exact checkOperands_respond_setWidth s hf (packWordB_operands_toNat hf)
    case isFalse h => exact exec_out_of_format s (inFormat_false_of_not inFormat_ch5 h)

/-- Settles O7: each command answers its channel of the operand word, which is any word. -/
theorem chanExtractsFormatAChannels : Obligations.ChanExtractsFormatAChannels := by
  intro s p
  refine ⟨⟨decode_encode (.chanAR p), decode_encode (.chanAG p), decode_encode (.chanAB p),
    decode_encode (.chanAA p)⟩, ?_⟩
  split
  case isTrue h =>
    have hf := inFormat_w32.2 h
    exact ⟨checkOperands_respond_setWidth s hf (redA_toNat _), checkOperands_respond_setWidth s hf (greenA_toNat _),
      checkOperands_respond_setWidth s hf (blueA_toNat _), checkOperands_respond_setWidth s hf (alphaA_toNat _)⟩
  case isFalse h =>
    have hf := inFormat_false_of_not inFormat_w32 h
    exact ⟨exec_out_of_format s hf, exec_out_of_format s hf, exec_out_of_format s hf, exec_out_of_format s hf⟩

/-- Settles O8: each command answers its channel of the low half of the operand word, which in format is the whole word. -/
theorem chanExtractsFormatBChannels : Obligations.ChanExtractsFormatBChannels := by
  intro s p
  refine ⟨⟨decode_encode (.chanBR p), decode_encode (.chanBG p), decode_encode (.chanBB p),
    decode_encode (.chanBA p)⟩, ?_⟩
  split
  case isTrue h =>
    have hf := inFormat_w16.2 h
    rw [← half_toNat_of_lt h.1]
    exact ⟨checkOperands_respond_setWidth s hf (redB_toNat _), checkOperands_respond_setWidth s hf (greenB_toNat _),
      checkOperands_respond_setWidth s hf (blueB_toNat _), checkOperands_respond_setWidth s hf (alphaB_toNat _)⟩
  case isFalse h =>
    have hf := inFormat_false_of_not inFormat_w16 h
    exact ⟨exec_out_of_format s hf, exec_out_of_format s hf, exec_out_of_format s hf, exec_out_of_format s hf⟩

/-- Settles O9: in each layout the channels are the digits of the word in a mixed base. -/
theorem extractionAndConstructionAreInverse : Obligations.ExtractionAndConstructionAreInverse :=
  ⟨channels_packWordA, channels_packWordB, packWordA_channels, packWordB_channels⟩

end Sys2Proof.Machine
end

section
/-! SUPPORT. The conversions: each function on one channel as arithmetic on natural numbers, the two conversions as sums of
weighted channels, and `CvtAB` as a left inverse of `CvtBA`. -/

namespace Sys2Proof.Machine

/-! ### The functions on one channel (R90, R92, R94) -/

theorem trunc5_toNat (c : Byte) : (trunc5 c).toNat = c.toNat / 8 := by
  have hc := c.isLt
  rw [trunc5, BitVec.extractLsb'_toNat, Nat.shiftRight_eq_div_pow]
  omega

theorem quant1_toNat (a : Byte) : (quant1 a).toNat = a.toNat / 128 := by
  have ha := a.isLt
  rw [quant1, BitVec.extractLsb'_toNat, Nat.shiftRight_eq_div_pow]
  omega

/-- The replicated bits fall below the shifted ones, so the `|` of R94 is a sum. -/
theorem expand8_toNat (v : BitVec 5) : (expand8 v).toNat = v.toNat * 8 + v.toNat / 4 := by
  have hv := v.isLt
  rw [expand8, BitVec.toNat_or, BitVec.toNat_ushiftRight, BitVec.toNat_shiftLeft, BitVec.toNat_setWidth_of_le (by decide),
    Nat.shiftRight_eq_div_pow, Nat.mod_eq_of_lt (by rw [Nat.shiftLeft_eq]; omega),
    ← Nat.shiftLeft_add_eq_or_of_lt (by omega), Nat.shiftLeft_eq]

theorem expandA_toNat (a : BitVec 1) : (expandA a).toNat = 255 * a.toNat := by
  rcases BitVec.eq_zero_or_eq_one a with rfl | rfl <;> rfl

/-! ### The conversions as sums of weighted channels (R91, R93) -/

theorem cvtWordAB_toNat (w : Word) : (cvtWordAB w).toNat =
    w.toNat / 2 ^ 27 * 2 ^ 11 + w.toNat / 2 ^ 19 % 32 * 2 ^ 6 + w.toNat / 2 ^ 11 % 32 * 2 + w.toNat / 2 ^ 7 % 2 := by
  have hhigh (n : Nat) : n % 256 / 8 = n / 8 % 32 := by omega
  have htop (n : Nat) : n % 256 / 128 = n / 128 % 2 := by omega
  rw [cvtWordAB, packWordB_toNat]
  simp only [trunc5_toNat, quant1_toNat, redA_toNat, greenA_toNat, blueA_toNat, alphaA_toNat, hhigh, htop,
    Nat.div_div_eq_div_mul, Nat.reducePow, Nat.reduceMul]

theorem cvtWordBA_toNat (w : Half) : (cvtWordBA w).toNat =
    (w.toNat / 2 ^ 11 * 8 + w.toNat / 2 ^ 11 / 4) * 2 ^ 24 +
      (w.toNat / 2 ^ 6 % 32 * 8 + w.toNat / 2 ^ 6 % 32 / 4) * 2 ^ 16 +
      (w.toNat / 2 % 32 * 8 + w.toNat / 2 % 32 / 4) * 2 ^ 8 + 255 * (w.toNat % 2) := by
  rw [cvtWordBA, packWordA_toNat]
  simp only [expand8_toNat, expandA_toNat, redB_toNat, greenB_toNat, blueB_toNat, alphaB_toNat]

/-! ### Format B to A to B (R95 (a)) -/

@[simp] theorem trunc5_expand8 (v : BitVec 5) : trunc5 (expand8 v) = v := by
  refine BitVec.eq_of_toNat_eq ?_
  rw [trunc5_toNat, expand8_toNat]
  omega

@[simp] theorem quant1_expandA (a : BitVec 1) : quant1 (expandA a) = a := by
  refine BitVec.eq_of_toNat_eq ?_
  rw [quant1_toNat, expandA_toNat]
  omega

@[simp] theorem cvtWordAB_cvtWordBA (w : Half) : cvtWordAB (cvtWordBA w) = w := by
  obtain ⟨hr, hg, hb, ha⟩ :=
    channels_packWordA (expand8 (redB w)) (expand8 (greenB w)) (expand8 (blueB w)) (expandA (alphaB w))
  simp only [cvtWordAB, cvtWordBA, hr, hg, hb, ha, trunc5_expand8, quant1_expandA, packWordB_channels]

theorem cvtWordBA_injective : Function.Injective cvtWordBA :=
  Function.LeftInverse.injective cvtWordAB_cvtWordBA

/-- An image of `CvtBA` goes through `CvtAB` without loss, so the round trip from Format A fixes the images alone. -/
theorem cvtWordBA_cvtWordAB_eq_iff (w : Word) : cvtWordBA (cvtWordAB w) = w ↔ ∃ h : Half, cvtWordBA h = w := by
  refine ⟨fun e => ⟨_, e⟩, ?_⟩
  rintro ⟨h, rfl⟩
  rw [cvtWordAB_cvtWordBA]

/-! ### Format A to B to A (R95 (b), (c)) -/

/-- Truncation takes the low three bits of a channel away, and expansion puts its high three bits in their place. -/
theorem expand8_trunc5_error (c : Byte) : (expand8 (trunc5 c)).toNat + c.toNat % 8 = c.toNat + c.toNat / 32 := by
  rw [expand8_toNat, trunc5_toNat]
  omega

theorem expand8_trunc5_low_by_seven_iff (c : Byte) :
    c.toNat = (expand8 (trunc5 c)).toNat + 7 ↔ c.toNat ∈ [7, 15, 23, 31] := by
  have hc := c.isLt
  have herror := expand8_trunc5_error c
  have hextreme : c.toNat = (expand8 (trunc5 c)).toNat + 7 ↔ c.toNat / 32 = 0 ∧ c.toNat % 8 = 7 := by omega
  rw [hextreme]
  simp only [List.mem_cons, List.not_mem_nil, or_false]
  omega

theorem expand8_trunc5_high_by_seven_iff (c : Byte) :
    (expand8 (trunc5 c)).toNat = c.toNat + 7 ↔ c.toNat ∈ [224, 232, 240, 248] := by
  have hc := c.isLt
  have herror := expand8_trunc5_error c
  have hextreme : (expand8 (trunc5 c)).toNat = c.toNat + 7 ↔ c.toNat / 32 = 7 ∧ c.toNat % 8 = 0 := by omega
  rw [hextreme]
  simp only [List.mem_cons, List.not_mem_nil, or_false]
  omega

theorem expandA_quant1 (a : Byte) : expandA (quant1 a) = if 128 ≤ a.toNat then 0xFF else 0x00 := by
  have ha := a.isLt
  have hval : (expandA (quant1 a)).toNat = 255 * (a.toNat / 128) := by rw [expandA_toNat, quant1_toNat]
  refine BitVec.eq_of_toNat_eq (hval.trans ?_)
  split
  case isTrue h => rw [Nat.div_eq_of_lt_le (k := 1) (by omega) (by omega)]; rfl
  case isFalse h => rw [Nat.div_eq_of_lt (by omega)]; rfl

/-! ### The commands in format (R91, R93) -/

theorem half_setWidth (h : Half) : half (h.setWidth 32) = h :=
  BitVec.eq_of_toNat_eq ((half_toNat_of_lt (toNat_setWidth_lt h)).trans (BitVec.toNat_setWidth_of_le (by decide)))

theorem exec_cvtAB {p : Operands} (s : State) (hf : inFormat .w32 p = true) :
    exec (.cvtAB p) s = .next (s.present ⟨.ok, false, (cvtWordAB p.p0).setWidth 32⟩) :=
  checkOperands_pos s _ hf

theorem exec_cvtBA {p : Operands} (s : State) (hf : inFormat .w16 p = true) :
    exec (.cvtBA p) s = .next (s.present ⟨.ok, false, cvtWordBA (half p.p0)⟩) :=
  checkOperands_pos s _ hf

end Sys2Proof.Machine
end

section
/-! The statements about the conversions between the two formats. -/

namespace Sys2Proof.Machine

/-- Settles O10: past the operand check each answer is the conversion's sum of weighted channels. -/
theorem conversionsAnswerTheBitPatterns : Obligations.ConversionsAnswerTheBitPatterns := by
  intro s p
  refine ⟨decode_encode (.cvtAB p), ?_, decode_encode (.cvtBA p), ?_⟩
  · split
    case isTrue h => exact checkOperands_respond_setWidth s (inFormat_w32.2 h) (cvtWordAB_toNat _)
    case isFalse h => exact exec_out_of_format s (inFormat_false_of_not inFormat_w32 h)
  · split
    case isTrue h =>
      rw [← half_toNat_of_lt h.1]
      exact checkOperands_respond_word s (inFormat_w16.2 h) (cvtWordBA_toNat _)
    case isFalse h => exact exec_out_of_format s (inFormat_false_of_not inFormat_w16 h)

/-- Settles O11: from B and back every channel returns; from A and back a channel's error is its top three bits less its low
three bits, so it is extreme where one of the two is 7 and the other 0. -/
theorem conversionRoundTrips : Obligations.ConversionRoundTrips := by
  refine ⟨⟨trunc5_expand8, quant1_expandA, cvtWordAB_cvtWordBA⟩, fun c => ?_, expandA_quant1,
    cvtWordBA_cvtWordAB_eq_iff, fun _ _ e => cvtWordBA_injective e⟩
  have hc := c.isLt
  have herror := expand8_trunc5_error c
  refine ⟨by omega, by omega, ?_, ?_⟩
  · rw [← expand8_trunc5_low_by_seven_iff]; omega
  · rw [← expand8_trunc5_high_by_seven_iff]; omega

/-- Settles O12: the word between the two commands is `CvtBA` of the first, which `CvtAB` inverts. -/
theorem convertThereAndBackAnswersTheWord : Obligations.ConvertThereAndBackAnswersTheWord := by
  intro s h
  refine ⟨cvtWordBA h, ?_, fun t => ?_⟩
  · rw [exec_cvtBA s (inFormat_w16.2 ⟨toNat_setWidth_lt h, rfl, rfl, rfl⟩), half_setWidth]
  · rw [exec_cvtAB t (inFormat_w32.2 ⟨rfl, rfl, rfl⟩), cvtWordAB_cvtWordBA]

end Sys2Proof.Machine
end

section
/-! SUPPORT. The gamma encodes over any remap, and the named colours: their words, the form their sixteen commands share, and
their agreement across the formats. -/

namespace Sys2Proof.Machine

/-! ### The gamma encodes in format (R100 to R102) -/

theorem ofNat_eq_chan8 (w : Word) : BitVec.ofNat 8 w.toNat = chan8 w := BitVec.eq_of_toNat_eq (chan8_toNat w).symm

theorem ofNat_eq_chan5 (w : Word) : BitVec.ofNat 5 w.toNat = chan5 w := BitVec.eq_of_toNat_eq (chan5_toNat w).symm

section
variable {p : Operands}

theorem gammaWordA_operands_toNat (remap : Byte → Byte) (hf : inFormat .ch8 p = true) :
    (gammaWordA remap (chan8 p.p0) (chan8 p.p1) (chan8 p.p2) (chan8 p.p3)).toNat =
      (remap (BitVec.ofNat 8 p.p0.toNat)).toNat * 2 ^ 24 + (remap (BitVec.ofNat 8 p.p1.toNat)).toNat * 2 ^ 16 +
        (remap (BitVec.ofNat 8 p.p2.toNat)).toNat * 2 ^ 8 + p.p3.toNat := by
  obtain ⟨-, -, -, ha⟩ := inFormat_ch8.1 hf
  simp only [gammaWordA, packWordA_toNat, ofNat_eq_chan8, chan8_toNat p.p3, Nat.mod_eq_of_lt ha]

theorem gammaWordB_operands_toNat (remap : BitVec 5 → BitVec 5) (hf : inFormat .ch5 p = true) :
    (gammaWordB remap (chan5 p.p0) (chan5 p.p1) (chan5 p.p2) (chan1 p.p3)).toNat =
      (remap (BitVec.ofNat 5 p.p0.toNat)).toNat * 2 ^ 11 + (remap (BitVec.ofNat 5 p.p1.toNat)).toNat * 2 ^ 6 +
        (remap (BitVec.ofNat 5 p.p2.toNat)).toNat * 2 + p.p3.toNat := by
  obtain ⟨-, -, -, ha⟩ := inFormat_ch5.1 hf
  simp only [gammaWordB, packWordB_toNat, ofNat_eq_chan5, chan1_toNat, Nat.mod_eq_of_lt ha]

end

/-! ### The commands that answer a constant (R103) -/

theorem inFormat_n0 {p : Operands} : inFormat .n0 p = true ↔ p = ⟨0, 0, 0, 0⟩ := by
  obtain ⟨p0, p1, p2, p3⟩ := p
  simp only [inFormat, formatMask, Bool.and_eq_true, fits_zero, Operands.mk.injEq, and_assoc]

theorem respondConstant_noOperands (s : State) (v : Word) :
    respondConstant noOperands s v = .next (s.present ⟨.ok, false, v⟩) :=
  checkOperands_pos s _ (inFormat_n0.2 rfl)

/-- A command that answers a constant is decoded from its opcode, and past the operand check gives that constant. -/
theorem decode_and_exec_of_respondConstant {i : Instr} {p : Operands} {s : State} {v : Word} (hp : operandWords i = p)
    (hexec : exec i s = respondConstant p s v) :
    decode (commandWord (opcode i) p) = .ok i ∧
    if p = ⟨0, 0, 0, 0⟩ then exec i s = .next (s.present ⟨.ok, false, v⟩)
    else exec i s = .next (s.present ⟨.errOperand, false, 0⟩) := by
  refine ⟨hp ▸ decode_encode i, ?_⟩
  rw [hexec]
  split
  case isTrue h => exact h ▸ respondConstant_noOperands s v
  case isFalse h => exact checkOperands_neg s _ (inFormat_false_of_not inFormat_n0 h)

/-! ### The commands of the named colours (R105 to R120) -/

theorem operandWords_colourCommandA (c : Colour) (p : Operands) : operandWords (colourCommandA c p) = p := by
  cases c <;> rfl

theorem operandWords_colourCommandB (c : Colour) (p : Operands) : operandWords (colourCommandB c p) = p := by
  cases c <;> rfl

theorem exec_colourCommandA (c : Colour) (p : Operands) (s : State) :
    exec (colourCommandA c p) s = respondConstant p s (colourA c) := by
  cases c <;> rfl

theorem exec_colourCommandB (c : Colour) (p : Operands) (s : State) :
    exec (colourCommandB c p) s = respondConstant p s ((colourB c).setWidth 32) := by
  cases c <;> rfl

/-- The named colours in the order of R103. -/
def namedColours : List Colour := [.black, .red, .green, .blue, .yellow, .magenta, .cyan, .white]

/-- The opcode, the command and the answer of a named colour in Format A. -/
def colourRowA (p : Operands) (c : Colour) : BitVec 8 × Instr × Word :=
  (opcode (colourCommandA c p), colourCommandA c p, colourA c)

/-- The opcode, the command and the answer of a named colour in Format B. -/
def colourRowB (p : Operands) (c : Colour) : BitVec 8 × Instr × Word :=
  (opcode (colourCommandB c p), colourCommandB c p, (colourB c).setWidth 32)

theorem map_colourRowA (p : Operands) : namedColours.map (colourRowA p) =
    [(0x40#8, .constABlack p, 0x000000FF#32), (0x41#8, .constARed p, 0xFF0000FF#32),
      (0x42#8, .constAGreen p, 0x00FF00FF#32), (0x43#8, .constABlue p, 0x0000FFFF#32),
      (0x44#8, .constAYellow p, 0xFFFF00FF#32), (0x45#8, .constAMagenta p, 0xFF00FFFF#32),
      (0x46#8, .constACyan p, 0x00FFFFFF#32), (0x47#8, .constAWhite p, 0xFFFFFFFF#32)] := rfl

theorem map_colourRowB (p : Operands) : namedColours.map (colourRowB p) =
    [(0x48#8, .constBBlack p, 0x00000001#32), (0x49#8, .constBRed p, 0x0000F801#32),
      (0x4A#8, .constBGreen p, 0x000007C1#32), (0x4B#8, .constBBlue p, 0x0000003F#32),
      (0x4C#8, .constBYellow p, 0x0000FFC1#32), (0x4D#8, .constBMagenta p, 0x0000F83F#32),
      (0x4E#8, .constBCyan p, 0x000007FF#32), (0x4F#8, .constBWhite p, 0x0000FFFF#32)] := rfl

/-! ### The named colours across the formats (R104) -/

theorem cvtWordBA_packWordB (r g b : BitVec 5) (a : BitVec 1) :
    cvtWordBA (packWordB r g b a) = packWordA (expand8 r) (expand8 g) (expand8 b) (expandA a) := by
  obtain ⟨hr, hg, hb, ha⟩ := channels_packWordB r g b a
  rw [cvtWordBA, hr, hg, hb, ha]

/-- Expansion takes a channel that is off to off, one at its maximum to the maximum, and opaque to opaque. -/
theorem cvtWordBA_colourB (c : Colour) : cvtWordBA (colourB c) = colourA c := by
  have hoff : expand8 0 = 0 := rfl
  have hfull : expand8 31 = 255 := rfl
  have hopaque : expandA 1 = 255 := rfl
  cases c <;> simp only [colourA, colourB, cvtWordBA_packWordB, hoff, hfull, hopaque]

theorem cvtWordAB_colourA (c : Colour) : cvtWordAB (colourA c) = colourB c := by
  rw [← cvtWordBA_colourB, cvtWordAB_cvtWordBA]

end Sys2Proof.Machine
end

section
/-! The statements about the gamma encodes and the named colours. -/

namespace Sys2Proof.Machine

/-- Settles O13: past the operand check the answer is the remapped channels' weighted sum, whatever the remap. -/
theorem gammaRemapsColourAndKeepsAlpha : Obligations.GammaRemapsColourAndKeepsAlpha := by
  intro s p
  refine ⟨decode_encode (.gammaA p), ?_, decode_encode (.gammaB p), ?_⟩
  · split
    case isTrue h =>
      have hf := inFormat_ch8.2 h
      exact checkOperands_respond_word s hf (gammaWordA_operands_toNat _ hf)
    case isFalse h => exact exec_out_of_format s (inFormat_false_of_not inFormat_ch8 h)
  · split
    case isTrue h =>
      have hf := inFormat_ch5.2 h
      exact checkOperands_respond_setWidth s hf (gammaWordB_operands_toNat _ hf)
    case isFalse h => exact exec_out_of_format s (inFormat_false_of_not inFormat_ch5 h)

/-- Settles O14: the rows are those of the named colours, and each command answers a constant. -/
theorem namedColoursOfFormatA : Obligations.NamedColoursOfFormatA := by
  intro s p row hrow
  rw [← map_colourRowA] at hrow
  obtain ⟨c, -, rfl⟩ := List.mem_map.1 hrow
  exact decode_and_exec_of_respondConstant (operandWords_colourCommandA c p) (exec_colourCommandA c p s)

/-- Settles O15: the rows are those of the named colours, and each command answers a constant. -/
theorem namedColoursOfFormatB : Obligations.NamedColoursOfFormatB := by
  intro s p row hrow
  rw [← map_colourRowB] at hrow
  obtain ⟨c, -, rfl⟩ := List.mem_map.1 hrow
  exact decode_and_exec_of_respondConstant (operandWords_colourCommandB c p) (exec_colourCommandB c p s)

/-- Settles O16: the words answered are those of the colour in each format, which the conversions take to each other. -/
theorem namedColoursAgreeAcrossFormats : Obligations.NamedColoursAgreeAcrossFormats := by
  intro c s
  refine ⟨colourA c, (colourB c).setWidth 32, ?_, ?_, ?_, ?_⟩
  · rw [exec_colourCommandA, respondConstant_noOperands]
  · rw [exec_colourCommandB, respondConstant_noOperands]
  · rw [exec_cvtAB s (inFormat_w32.2 ⟨rfl, rfl, rfl⟩), cvtWordAB_colourA]
  · rw [exec_cvtBA s (inFormat_w16.2 ⟨toNat_setWidth_lt _, rfl, rfl, rfl⟩), half_setWidth, cvtWordBA_colourB]

end Sys2Proof.Machine
end

section
/-! SUPPORT. The commands of the descriptor: the fields `SURF.SET` reads from its operand words, its outcomes past the busy
check, the form the five accessors share, and what every command but `SURF.SET` does without a surface. -/

namespace Sys2Proof

/-- The code of a pixel format (R8). -/
def Format.code : Format → Nat
  | .a => 0
  | .b => 1

/-- The code of an alignment class (R12). -/
def Purpose.code : Purpose → Nat
  | .generalBuffer => 0
  | .displayFramebuffer => 2

theorem Format.code_lt (f : Format) : f.code < 2 := by cases f <;> decide

theorem Purpose.code_eq_zero_or_two (c : Purpose) : c.code = 0 ∨ c.code = 2 := by cases c <;> decide

end Sys2Proof

namespace Sys2Proof.Machine

/-! ### The fields of the operands of `SURF.SET` (R56) -/

theorem widthField_toNat (w : Word) : (widthField w).toNat = w.toNat % 2 ^ 16 := by
  rw [widthField, BitVec.extractLsb'_toNat, Nat.shiftRight_zero]

theorem heightField_toNat (w : Word) : (heightField w).toNat = w.toNat / 2 ^ 16 := by
  rw [heightField, BitVec.extractLsb'_toNat, Nat.shiftRight_eq_div_pow]
  exact Nat.mod_eq_of_lt (Nat.div_lt_of_lt_mul w.isLt)

theorem fmtField_eq {w : Word} {f : Format} (h : w.toNat % 2 = f.code) : fmtField w = f := by
  have hbit : w.getLsbD 0 = decide (w.toNat % 2 = 1) := Nat.testBit_zero _
  rw [fmtField, hbit, h]
  cases f <;> rfl

theorem purposeField_eq {w : Word} {c : Purpose} (h : w.toNat / 2 % 2 = c.code / 2) : purposeField w = c := by
  have hbit : w.getLsbD 1 = decide (w.toNat / 2 % 2 = 1) := by
    rw [BitVec.getLsbD, Nat.testBit_succ, Nat.testBit_zero]
  rw [purposeField, hbit, h]
  cases c <;> rfl

/-- The two codes stand in two different bits of their sum, and the four fields in different bits of the operand words. -/
theorem describedSurface_eq {p : Operands} {width height : Half} {fmt : Format} {purpose : Purpose}
    (hdims : p.p1.toNat = height.toNat * 2 ^ 16 + width.toNat)
    (hattrs : p.p2.toNat % 4 = purpose.code + fmt.code) :
    describedSurface p = ⟨p.p0, width, height, fmt, purpose⟩ := by
  have hlt := width.isLt
  have hwidth : widthField p.p1 = width := BitVec.eq_of_toNat_eq (by rw [widthField_toNat]; omega)
  have hheight : heightField p.p1 = height := BitVec.eq_of_toNat_eq (by rw [heightField_toNat]; omega)
  have hbit0 := fmt.code_lt
  have hbit1 := purpose.code_eq_zero_or_two
  have hfmt : fmtField p.p2 = fmt := fmtField_eq (by omega)
  have hpurpose : purposeField p.p2 = purpose := purposeField_eq (by omega)
  rw [describedSurface, hwidth, hheight, hfmt, hpurpose]

theorem inFormat_set {p : Operands} : inFormat .set p = true ↔ p.p2.toNat < 4 ∧ p.p3 = 0 := by
  simp only [inFormat, formatMask, Bool.and_eq_true, fits_ones, fits_zero, fits_0x3, true_and]

/-! ### `SURF.SET` past the busy check (R131) -/

section
variable {s : State} {p : Operands}

theorem exec_surfSet_none (hs : s.surface = none) (hf : inFormat .set p = true) :
    exec (.surfSet p) s = setSurface Config.displayAlign (describedSurface p) s := by
  simp only [exec, execSurfSet, surfSetOver, checkOperands_pos s _ hf, hs]

theorem exec_surfSet_misaligned (hs : s.surface = none) (hf : inFormat .set p = true)
    (h : (describedSurface p).base.toNat % (describedSurface p).align ≠ 0) :
    exec (.surfSet p) s = s.raise .errAlign :=
  (exec_surfSet_none hs hf).trans (if_pos h)

theorem exec_surfSet_out_of_range (hs : s.surface = none) (hf : inFormat .set p = true)
    (halign : (describedSurface p).base.toNat % (describedSurface p).align = 0)
    (h : (describedSurface p).base.toNat + (describedSurface p).size > 2 ^ 32) :
    exec (.surfSet p) s = s.raise .errRange :=
  (exec_surfSet_none hs hf).trans ((if_neg (not_not_intro halign)).trans (if_pos h))

end

/-! ### The accessors (R133 to R137) -/

theorem count_word_toNat (d : Surface) : (BitVec.ofNat 32 d.count).toNat = d.width.toNat * d.height.toNat := by
  have hle := d.count_le
  exact (BitVec.toNat_ofNat _ _).trans (Nat.mod_eq_of_lt (by omega))

theorem attrWord_toNat (d : Surface) : (attrWord d).toNat = d.purpose.code + d.fmt.code := by
  unfold attrWord
  cases d.purpose <;> cases d.fmt <;> rfl

/-- A command that queries the descriptor is decoded from its opcode, and past its two checks answers its value. -/
theorem decode_and_exec_of_queryDescriptor {i : Instr} {p : Operands} {s : State} {answer : Surface → Word}
    {value : Surface → Nat} (hp : operandWords i = p) (hexec : exec i s = queryDescriptor p s answer)
    (hvalue : ∀ d, (answer d).toNat = value d) :
    decode (commandWord (opcode i) p) = .ok i ∧
    if p ≠ ⟨0, 0, 0, 0⟩ then exec i s = .next (s.present ⟨.errOperand, false, 0⟩)
    else
      (s.surface = none → exec i s = .next (s.present ⟨.errNosurf, false, 0⟩)) ∧
      (∀ d, s.surface = some d →
        value d < 2 ^ 32 ∧ exec i s = .next (s.present ⟨.ok, false, BitVec.ofNat 32 (value d)⟩)) := by
  refine ⟨hp ▸ decode_encode i, ?_⟩
  rw [hexec]
  split
  case isTrue h => exact checkOperands_neg s _ (inFormat_false_of_not inFormat_n0 h)
  case isFalse h =>
    rw [queryDescriptor, checkOperands_pos s _ (inFormat_n0.2 (not_not.1 h))]
    refine ⟨fun hs => withSurface_none _ hs, fun d hd => ?_⟩
    rw [← hvalue d, BitVec.ofNat_toNat, BitVec.setWidth_eq]
    exact ⟨(answer d).isLt, withSurface_some _ hd⟩

/-! ### The status of `SURF.SET` and `SURF.CLR` and the descriptor (R138) -/

/-- An error leaves the descriptor; the one completion of `SURF.SET` finds none and leaves one. -/
theorem Effect.surfSet_ok_iff {p : Operands} {s t : State} {r : Response} (h : Effect (.surfSet p) s t)
    (hr : t.phase = .responding r) : r.status = .ok ↔ s.surface = none ∧ t.surface ≠ none := by
  cases h with
  | error e he =>
    cases hr
    exact iff_of_false he fun ⟨hs, ht⟩ => ht hs
  | set q hi hs =>
    cases hr
    exact iff_of_true rfl ⟨hs, nofun⟩
  | answer hi => exact absurd rfl (hi.1 p)
  | clear q hi => cases hi
  | load q hi => cases hi
  | store hi => exact absurd rfl (hi.mayAnswerOnly.1 p)

/-- An error leaves the descriptor; the one completion of `SURF.CLR` finds one and leaves none. -/
theorem Effect.surfClr_ok_iff {p : Operands} {s t : State} {r : Response} (h : Effect (.surfClr p) s t)
    (hr : t.phase = .responding r) : r.status = .ok ↔ s.surface ≠ none ∧ t.surface = none := by
  cases h with
  | error e he =>
    cases hr
    exact iff_of_false he fun ⟨hs, ht⟩ => hs ht
  | clear q hi d hs =>
    cases hr
    exact iff_of_true rfl ⟨hs ▸ nofun, rfl⟩
  | answer hi => exact absurd rfl (hi.2.1 p)
  | set q hi => cases hi
  | load q hi => cases hi
  | store hi => exact absurd rfl (hi.mayAnswerOnly.2.1 p)

theorem Effect.surface_eq_of_ne {i : Instr} {s t : State} (h : Effect i s t) (hset : ∀ p, i ≠ .surfSet p)
    (hclr : ∀ p, i ≠ .surfClr p) : t.surface = s.surface := by
  cases h with
  | set p hi => exact absurd hi (hset p)
  | clear p hi => exact absurd hi (hclr p)
  | error | answer | load | store => rfl

/-! ### The valid test (R130) -/

/-- Every SURF and PIX command but `SURF.SET` is the operand check and then the valid test. -/
theorem exec_valid_test {i : Instr} (hi : isColour i = false) (hset : ∀ p, i ≠ .surfSet p) (s : State) :
    ∃ k, exec i s = checkOperands (instrFormat i) (operandWords i) s (withSurface s k) := by
  cases i with
  | surfSet p => exact absurd rfl (hset p)
  | surfClr | surfBase | surfWidth | surfHeight | surfCount | surfAttr | surfOffs | surfAddr | surfLoad
  | drawA | storeA | drawB | storeB => exact ⟨_, rfl⟩
  | _ => exact nomatch hi

end Sys2Proof.Machine
end

section
/-! The statements about the commands of the descriptor. -/

namespace Sys2Proof.Machine

/-- Settles O18: the operands fix the surface they describe, and each branch is an outcome of `SURF.SET` over it. -/
theorem surfSetChecksThenWritesTheDescriptor : Obligations.SurfSetChecksThenWritesTheDescriptor := by
  intro s p width height fmt purpose hdims hattrs
  have hdesc : describedSurface p = ⟨p.p0, width, height, fmt, purpose⟩ := describedSurface_eq hdims hattrs
  refine ⟨decode_encode (.surfSet p), ?_⟩
  intro psize align
  split
  case isTrue h =>
    refine exec_out_of_format s (inFormat_false_of_not inFormat_set fun ⟨hp2, hp3⟩ => ?_)
    exact h.elim (Nat.not_le.2 hp2) (absurd hp3)
  case isFalse h =>
    have hf : inFormat .set p = true := inFormat_set.2 (by simpa using h)
    split
    case isTrue hbusy =>
      obtain ⟨d, hd⟩ := Option.ne_none_iff_exists'.1 hbusy
      exact exec_surfSet_busy hd hf
    case isFalse hbusy =>
      have hs : s.surface = none := not_not.1 hbusy
      split
      case isTrue halign => exact exec_surfSet_misaligned hs hf (hdesc ▸ halign)
      case isFalse halign =>
        have hal : (describedSurface p).base.toNat % (describedSurface p).align = 0 := hdesc ▸ not_not.1 halign
        split
        case isTrue hrange => exact exec_surfSet_out_of_range hs hf hal (hdesc ▸ hrange)
        case isFalse hrange =>
          rw [exec_surfSet_legal hs hf ⟨hal, hdesc ▸ Nat.not_lt.1 hrange⟩, hdesc]
          rfl

/-- Settles O19: past the operand check and the valid test the one effect is the write of no surface. -/
theorem surfClrForgetsTheSurface : Obligations.SurfClrForgetsTheSurface := by
  intro s p
  refine ⟨decode_encode (.surfClr p), ?_⟩
  split
  case isTrue h => exact exec_out_of_format s (inFormat_false_of_not inFormat_n0 h)
  case isFalse h =>
    obtain rfl := not_not.1 h
    split
    case isTrue hs => exact (checkOperands_pos s _ (inFormat_n0.2 rfl)).trans (withSurface_none _ hs)
    case isFalse hs =>
      obtain ⟨d, hd⟩ := Option.ne_none_iff_exists'.1 hs
      exact exec_surfClr_some hd

/-- Settles O20: each accessor is a query of the descriptor, whose word is the number that the row gives. -/
theorem accessorsAnswerTheDescriptor : Obligations.AccessorsAnswerTheDescriptor := by
  intro s p row hrow
  simp only [List.mem_cons, List.not_mem_nil, or_false] at hrow
  rcases hrow with rfl | rfl | rfl | rfl | rfl
  · exact decode_and_exec_of_queryDescriptor (i := .surfBase p) rfl rfl fun _ => rfl
  · exact decode_and_exec_of_queryDescriptor (i := .surfWidth p) rfl rfl fun _ => BitVec.toNat_setWidth_of_le (by decide)
  · exact decode_and_exec_of_queryDescriptor (i := .surfHeight p) rfl rfl fun _ => BitVec.toNat_setWidth_of_le (by decide)
  · exact decode_and_exec_of_queryDescriptor (i := .surfCount p) rfl rfl count_word_toNat
  · exact decode_and_exec_of_queryDescriptor (i := .surfAttr p) rfl rfl attrWord_toNat

/-- Settles O22, by the effects of a command: two of them write the descriptor, each in one direction. -/
theorem setAndClearAlternate : Obligations.SetAndClearAlternate := by
  intro i s t r h hr
  have heff := exec_effect h
  refine ⟨?_, ?_, heff.surface_eq_of_ne⟩
  · rintro ⟨p, rfl⟩
    exact heff.surfSet_ok_iff hr
  · rintro ⟨p, rfl⟩
    exact heff.surfClr_ok_iff hr

/-- Settles O52: past the operand check a colour command answers its word, and the others but `SURF.SET` fail the valid test. -/
theorem colourCommandsNeedNoSurfaceOthersButSetDo : Obligations.ColourCommandsNeedNoSurfaceOthersButSetDo := by
  refine ⟨State.applyReset_surface, fun i s hs hwf => ⟨fun hcolour => ?_, fun hother hset => ?_⟩⟩
  · obtain ⟨data, hexec⟩ := exec_colour hcolour
    exact ⟨data, (hexec s).trans (checkOperands_pos s _ hwf)⟩
  · obtain ⟨k, hexec⟩ := exec_valid_test hother hset s
    exact hexec.trans ((checkOperands_pos s _ hwf).trans (withSurface_none k hs))

end Sys2Proof.Machine
end

section
/-! SUPPORT. Points and addresses: the two bounds tests as inequalities, the offset as a sum, and the hits under `Strict` as
the numbers below `COUNT`. -/

namespace Sys2Proof.Machine

section
variable {policy : BoundsPolicy} {d : Surface} {x y : Int}

/-! ### The bounds test (R141) -/

theorem inBounds_strict_iff :
    inBounds .strict d x y = true ↔ 0 ≤ x ∧ x < d.width.toNat ∧ 0 ≤ y ∧ y < d.height.toNat := by
  simp only [inBounds, Bool.and_eq_true, decide_eq_true_eq, and_assoc]

theorem inBounds_inclusive_iff :
    inBounds .inclusive d x y = true ↔ 0 ≤ x ∧ x ≤ d.width.toNat ∧ 0 ≤ y ∧ y ≤ d.height.toNat := by
  simp only [inBounds, Bool.and_eq_true, decide_eq_true_eq, and_assoc]

/-- What a hit is known to satisfy whichever the policy is: `Inclusive` is the weaker test. -/
theorem le_of_inBounds (h : inBounds policy d x y = true) :
    0 ≤ x ∧ x ≤ d.width.toNat ∧ 0 ≤ y ∧ y ≤ d.height.toNat := by
  cases policy with
  | strict =>
    obtain ⟨hx, hxw, hy, hyh⟩ := inBounds_strict_iff.1 h
    exact ⟨hx, hxw.le, hy, hyh.le⟩
  | inclusive => exact inBounds_inclusive_iff.1 h

theorem inBounds_eq_false_of_not_le (h : ¬ (0 ≤ x ∧ x ≤ d.width.toNat ∧ 0 ≤ y ∧ y ≤ d.height.toNat)) :
    inBounds policy d x y = false := Bool.eq_false_iff.2 (mt le_of_inBounds h)

theorem inBounds_strict_eq_false (h : ¬ (0 ≤ x ∧ x < d.width.toNat ∧ 0 ≤ y ∧ y < d.height.toNat)) :
    inBounds .strict d x y = false := Bool.eq_false_iff.2 (mt inBounds_strict_iff.1 h)

/-- The signed reading of a word is the unsigned one, or it is negative and the unsigned one is beyond every dimension. -/
theorem coord_eq_toNat_or (w : Word) : coord w = w.toNat ∨ (coord w < 0 ∧ 65535 < w.toNat) := by
  have hw := w.isLt
  rw [coord, BitVec.toInt_eq_toNat_cond]
  split
  · exact .inl rfl
  · exact .inr ⟨by omega, by omega⟩

/-- The unsigned reading of both coordinates gives the same answer (R141). -/
theorem inBounds_coord (policy : BoundsPolicy) (d : Surface) (a b : Word) :
    inBounds policy d (coord a) (coord b) = inBounds policy d (a.toNat : Int) (b.toNat : Int) := by
  have hwidth := d.width.isLt
  have hheight := d.height.isLt
  rcases coord_eq_toNat_or a with ha | ⟨ha, ha'⟩
  · rcases coord_eq_toNat_or b with hb | ⟨hb, hb'⟩
    · rw [ha, hb]
    · rw [inBounds_eq_false_of_not_le (by omega), inBounds_eq_false_of_not_le (by omega)]
  · rw [inBounds_eq_false_of_not_le (by omega), inBounds_eq_false_of_not_le (by omega)]

/-- On a hit the signed reading of a coordinate is the unsigned one. -/
theorem toNat_toInt_of_nonneg {w : Word} (h : 0 ≤ w.toInt) : w.toInt.toNat = w.toNat := by
  rcases coord_eq_toNat_or w with hw | ⟨hw, -⟩
  · exact congrArg Int.toNat hw
  · exact absurd h (not_le_of_gt hw)

/-! ### The offset (R142) -/

theorem offset_natCast (d : Surface) (m n : Nat) : d.offset m n = m + n * d.width.toNat := rfl

theorem offset_eq_sum (hx : 0 ≤ x) (hy : 0 ≤ y) : (d.offset x y : Int) = x + y * d.width.toNat := by
  lift x to Nat using hx
  lift y to Nat using hy
  rw [offset_natCast]
  push_cast
  rfl

theorem offset_succ_column (hx : 0 ≤ x) (hy : 0 ≤ y) : d.offset (x + 1) y = d.offset x y + 1 := by
  have hleft := offset_eq_sum (d := d) (Int.add_nonneg hx Int.one_nonneg) hy
  have hright := offset_eq_sum (d := d) hx hy
  omega

theorem offset_succ_row (hx : 0 ≤ x) (hy : 0 ≤ y) : d.offset x (y + 1) = d.offset x y + d.width.toNat := by
  have hleft := offset_eq_sum (d := d) hx (Int.add_nonneg hy Int.one_nonneg)
  have hright := offset_eq_sum (d := d) hx hy
  rw [Int.add_mul, Int.one_mul] at hleft
  omega

/-- The point beyond the last column has the offset of the first point of the next row. -/
theorem offset_width (hy : 0 ≤ y) : d.offset d.width.toNat y = d.offset 0 (y + 1) := by
  have hleft := offset_eq_sum (d := d) (Int.natCast_nonneg d.width.toNat) hy
  have hright := offset_eq_sum (d := d) le_rfl hy
  rw [offset_succ_row le_rfl hy]
  omega

/-- The row beyond the last one begins at `COUNT`. -/
theorem offset_height (hx : 0 ≤ x) : (d.offset x d.height.toNat : Int) = d.count + x := by
  rw [offset_eq_sum hx (Int.natCast_nonneg _), Surface.count, Nat.mul_comm, Int.natCast_mul, Int.add_comm]

/-- The largest offset is that of `(65535, 65535)` on the largest surface, under `Inclusive`. -/
theorem offset_le (h : inBounds policy d x y = true) : d.offset x y ≤ 65535 + 65535 * 65535 := by
  obtain ⟨-, hxw, -, hyh⟩ := le_of_inBounds h
  have hwidth := d.width.isLt
  have hheight := d.height.isLt
  exact Nat.add_le_add (by omega) (Nat.mul_le_mul (by omega) (by omega))

/-- The point that has offset `k`: column and row are remainder and quotient by the width. -/
theorem offset_of_divMod (d : Surface) (k : Nat) :
    d.offset (k % d.width.toNat : Nat) (k / d.width.toNat : Nat) = k := by
  rw [offset_natCast, Nat.mul_comm, Nat.mod_add_div]

theorem inBounds_divMod {k : Nat} (hk : k < d.count) :
    inBounds .strict d (k % d.width.toNat : Nat) (k / d.width.toNat : Nat) = true := by
  have hwidth : 0 < d.width.toNat := Nat.pos_of_mul_pos_right (Nat.zero_lt_of_lt hk)
  exact inBounds_strict_iff.2 ⟨Int.natCast_nonneg _, Int.ofNat_lt.2 (Nat.mod_lt _ hwidth), Int.natCast_nonneg _,
    Int.ofNat_lt.2 (Nat.div_lt_of_lt_mul hk)⟩

/-- A hit under `Strict` is the remainder and the quotient of its offset, so no two hits share one. -/
theorem eq_divMod_of_inBounds (h : inBounds .strict d x y = true) :
    x = (d.offset x y % d.width.toNat : Nat) ∧ y = (d.offset x y / d.width.toNat : Nat) := by
  obtain ⟨hx, hxw, hy, -⟩ := inBounds_strict_iff.1 h
  lift x to Nat using hx
  lift y to Nat using hy
  have hxw : x < d.width.toNat := Int.ofNat_lt.1 hxw
  rw [offset_natCast, Nat.add_mul_mod_self_right, Nat.mod_eq_of_lt hxw, Nat.add_mul_div_right _ _ (Nat.zero_lt_of_lt hxw),
    Nat.div_eq_of_lt hxw, Nat.zero_add]
  exact ⟨rfl, rfl⟩

/-! ### The address (R142, R147) -/

theorem pixelAddr_offset (d : Surface) (x y : Int) : d.pixelAddr (d.offset x y) = d.pointAddr x y := rfl

theorem pointAddr_toNat (d : Surface) (x y : Int) :
    (d.pointAddr x y).toNat = (d.base.toNat + d.offset x y * pixelBytes d.fmt) % 2 ^ 32 := BitVec.toNat_ofNat _ _

end

end Sys2Proof.Machine
end

section
/-! The statements about points and addresses. -/

namespace Sys2Proof.Machine

/-- Settles O24: each policy's test is its inequalities, and a word read as signed differs only where both readings miss. -/
theorem boundsTestOfAPoint : Obligations.BoundsTestOfAPoint := by
  refine ⟨fun d x y => ⟨inBounds_strict_iff, inBounds_inclusive_iff⟩, fun policy d x y h => ?_, inBounds_coord,
    fun d x y hempty => inBounds_strict_eq_false (by omega), fun policy d => inBounds_eq_false_of_not_le (by omega),
    fun d => ⟨inBounds_inclusive_iff.2 (by omega), inBounds_strict_eq_false (by omega)⟩, rfl⟩
  have hle := le_of_inBounds h
  have hwidth := d.width.isLt
  have hheight := d.height.isLt
  omega

/-- Settles O25: the offset is a sum under either policy, and under `Strict` division by the width inverts it. -/
theorem offsetAndAddressOfAHit : Obligations.OffsetAndAddressOfAHit := by
  refine ⟨fun policy d x y h => ?_, fun d => by rw [← Int.natCast_zero, offset_natCast, Nat.zero_mul], fun d k hk => ?_,
    fun d x y hl h => ?_⟩
  · obtain ⟨hx, -, hy, -⟩ := le_of_inBounds h
    exact ⟨offset_eq_sum hx hy, offset_le h, pointAddr_toNat d x y, offset_succ_column hx hy, offset_succ_row hx hy⟩
  · refine ⟨_, _, ⟨inBounds_divMod hk, offset_of_divMod d k⟩, fun x' y' h hoffset => ?_⟩
    rw [← hoffset]
    exact eq_divMod_of_inBounds h
  · have hlt := offset_lt_count h
    obtain ⟨hto, hend⟩ := hl.pixelAddr_toNat hlt
    exact ⟨hlt, hto, hto ▸ hend⟩

/-- Settles O27: the extra hits lie on the two lines beyond the last column and the last row, and the offset is their sum. -/
theorem inclusiveExtraHits : Obligations.InclusiveExtraHits := by
  refine ⟨fun d x y => ?_, fun d y hw hy hyh => ⟨?_, inBounds_strict_iff.2 (by omega)⟩, fun d hh => ?_,
    fun d x hx _ => ?_, fun d x y hw h => ?_⟩
  · rw [inBounds_inclusive_iff, ← Bool.not_eq_true, inBounds_strict_iff]
    omega
  · exact offset_width hy
  · have hlast := offset_height (d := d) le_rfl
    rw [offset_width (by omega), Int.sub_add_cancel]
    omega
  · exact offset_height hx
  · obtain ⟨hx, hxw, hy, -⟩ := le_of_inBounds h
    have hoffset := offset_eq_sum (d := d) hx hy
    rw [hw] at hoffset
    exact ⟨by omega, by omega, by rw [Surface.count, hw, Nat.zero_mul]⟩

/-- Settles O26: a pixel below `COUNT` does not wrap, and the two addresses are one function of the offset. -/
theorem indexAddressesAgreeWithPointAddresses : Obligations.IndexAddressesAgreeWithPointAddresses := by
  refine ⟨fun d k hl hk => ?_, fun d x y _ => pixelAddr_offset d x y⟩
  obtain ⟨hto, hend⟩ := hl.pixelAddr_toNat hk
  exact ⟨hto, BitVec.isLt _, by omega, hto ▸ hend⟩

end Sys2Proof.Machine
end

section
/-! SUPPORT. The commands that take a point or an index: their errors in the order of R165, the form of the two commands that
locate a point, and one load or one store of a pixel of a legal surface. -/

namespace Sys2Proof.Machine

section
variable {s : State} {d : Surface} {p : Operands}

/-! ### The errors in their order (R165) -/

theorem exec_without_surface {i : Instr} (hi : isColour i = false) (hset : ∀ p, i ≠ .surfSet p)
    (hf : inFormat (instrFormat i) (operandWords i) = true) (hs : s.surface = none) :
    exec i s = .next (s.present ⟨.errNosurf, false, 0⟩) := by
  obtain ⟨k, hexec⟩ := exec_valid_test hi hset s
  exact hexec.trans ((checkOperands_pos s _ hf).trans (withSurface_none k hs))

theorem checkIndex_neg {idx : Word} {k : Result} (h : d.count ≤ idx.toNat) : checkIndex idx d s k = s.raise .errIndex :=
  if_neg (Nat.not_lt.2 h)

/-- The three checks of a command with an index operand, with the last one failing. -/
theorem checks_index_beyond {f : OperandFormat} {idx : Word} {k : Surface → Result} (hf : inFormat f p = true)
    (hd : s.surface = some d) (hk : d.count ≤ idx.toNat) :
    checkOperands f p s (withSurface s fun d => checkIndex idx d s (k d)) =
      .next (s.present ⟨.errIndex, false, 0⟩) :=
  (checkOperands_pos s _ hf).trans ((withSurface_some _ hd).trans (checkIndex_neg hk))

/-! ### The commands that locate a point (R143, R144) -/

/-- A command that locates a point is decoded from its opcode, and past its two checks answers its value of a hit. -/
theorem decode_and_exec_of_locatePoint {i : Instr} {answer : Surface → Int → Int → Word} {value : Surface → Word}
    (hp : operandWords i = p) (hexec : exec i s = locatePoint .strict p s answer)
    (hvalue : ∀ d, 0 ≤ p.p0.toInt → 0 ≤ p.p1.toInt → answer d p.p0.toInt p.p1.toInt = value d) :
    decode (commandWord (opcode i) p) = .ok i ∧
    if p.p2 ≠ 0 ∨ p.p3 ≠ 0 then exec i s = .next (s.present ⟨.errOperand, false, 0⟩)
    else
      (s.surface = none → exec i s = .next (s.present ⟨.errNosurf, false, 0⟩)) ∧
      (∀ d, s.surface = some d →
        if 0 ≤ p.p0.toInt ∧ p.p0.toInt < d.width.toNat ∧ 0 ≤ p.p1.toInt ∧ p.p1.toInt < d.height.toNat then
          exec i s = .next (s.present ⟨.ok, true, value d⟩)
        else exec i s = .next (s.present ⟨.ok, false, 0⟩)) := by
  refine ⟨hp ▸ decode_encode i, ?_⟩
  rw [hexec]
  split
  case isTrue h =>
    exact checkOperands_neg s _ (inFormat_false_of_not inFormat_xy fun ⟨hp2, hp3⟩ => h.elim (absurd hp2) (absurd hp3))
  case isFalse h =>
    rw [locatePoint, checkOperands_pos s _ (inFormat_xy.2 (by simpa using h))]
    refine ⟨fun hs => withSurface_none _ hs, fun d hd => ?_⟩
    rw [withSurface_some _ hd]
    split
    case isTrue hit =>
      have hb := inBounds_strict_iff.2 hit
      obtain ⟨hx, -, hy, -⟩ := hit
      rw [← hvalue d hx hy]
      exact if_pos hb
    case isFalse miss => exact if_neg (Bool.eq_false_iff.1 (inBounds_strict_eq_false miss))

/-- On a hit the coordinate words are the column and the row as natural numbers. -/
theorem offset_toInt {x y : Word} (d : Surface) (hx : 0 ≤ x.toInt) (hy : 0 ≤ y.toInt) :
    d.offset x.toInt y.toInt = x.toNat + y.toNat * d.width.toNat := by
  rw [Surface.offset, toNat_toInt_of_nonneg hx, toNat_toInt_of_nonneg hy]

/-! ### Loading a pixel (R146) -/

theorem readPixel_a_data (m : Memory) (a : Nat) : (readPixel m a .a).data =
    BitVec.ofNat 32 ((readByte m a).toNat * 2 ^ 24 + (readByte m (a + 1)).toNat * 2 ^ 16 +
      (readByte m (a + 2)).toNat * 2 ^ 8 + (readByte m (a + 3)).toNat) := by
  rw [← toNat_append4, BitVec.ofNat_toNat, BitVec.setWidth_eq]
  rfl

theorem readPixel_b_data (m : Memory) (a : Nat) : (readPixel m a .b).data =
    BitVec.ofNat 32 ((readByte m a).toNat * 2 ^ 8 + (readByte m (a + 1)).toNat) := by
  rw [← toNat_append2, BitVec.ofNat_toNat]
  rfl

theorem Surface.Legal.exec_surfLoad_inFormat (h : d.Legal) (hd : s.surface = some d) (hf : inFormat .idx p = true)
    (hk : p.p0.toNat < d.count) :
    exec (.surfLoad p) s = .next ((s.requestRead (d.pixelAddr p.p0.toNat) d.psize).present
      ⟨.ok, false, (readPixel s.mem (d.base.toNat + p.p0.toNat * d.psize) d.fmt).data⟩) := by
  rw [← (h.pixelAddr_toNat hk).1]
  exact (exec_surfLoad_index hd hf hk).trans (loadPixel_aligned s (h.aligned_pixelAddr hk))

/-! ### Storing a pixel (R148, R149, R151, R152) -/

theorem ofNat_eq_half (w : Word) : BitVec.ofNat 16 w.toNat = half w := BitVec.eq_of_toNat_eq (half_toNat w).symm

theorem half_eq_setWidth (w : Word) : half w = w.setWidth 16 := by
  rw [← ofNat_eq_half, BitVec.ofNat_toNat]

/-- The state after the store of pixel `k`. -/
def State.afterStore (s : State) (d : Surface) (k : Nat) (px : Pixel) : State :=
  (s.requestWrite (d.pixelAddr k) px).present ⟨.ok, false, 0⟩

@[simp] theorem State.afterStore_mem (s : State) (d : Surface) (k : Nat) (px : Pixel) :
    (s.afterStore d k px).mem = writePixel s.mem (d.pixelAddr k).toNat px := rfl

theorem Surface.Legal.storePixel_eq (h : d.Legal) (s : State) {k : Nat} {px : Pixel} (hk : k < d.count)
    (hp : px.fmt = d.fmt) : storePixel s (d.pixelAddr k) px = .next (s.afterStore d k px) :=
  storePixel_aligned s (hp ▸ h.aligned_pixelAddr hk)

theorem Surface.Legal.storesPixel_afterStore (h : d.Legal) (hm : s.mem.wf = true) {k : Nat} {px : Pixel}
    (hk : k < d.count) (hp : px.fmt = d.fmt) : StoresPixel s (s.afterStore d k px) (d.pixelAddr k) px := by
  have hspace := h.pixelAddr_add_le hk hp
  exact ⟨rfl, rfl, rfl, rfl, writePixel_wf _ _ _ hspace hm, readPixel_writePixel _ _ _ hspace hm,
    fun b hb => readByte_writePixel_outside _ _ b _ hspace hm hb⟩

/-- A command that comes to the store of a pixel of a legal surface leaves what `StoresPixel` says. -/
theorem Surface.Legal.storesPixel_of_exec (h : d.Legal) (hm : s.mem.wf = true) {i : Instr} {k : Nat} {px : Pixel}
    (hk : k < d.count) (hp : px.fmt = d.fmt) (hexec : exec i s = storePixel s (d.pixelAddr k) px) :
    ∃ t, exec i s = .next t ∧ StoresPixel s t (d.pixelAddr k) px :=
  ⟨_, hexec.trans (h.storePixel_eq s hk hp), h.storesPixel_afterStore hm hk hp⟩

theorem drawPixel_miss {policy : BoundsPolicy} {x y : Int} (px : Pixel) (s : State) (h : inBounds policy d x y = false) :
    drawPixel policy d x y px s = .next (s.present ⟨.ok, false, 0⟩) := if_neg (Bool.eq_false_iff.1 h)

theorem exec_drawA_surface (hd : s.surface = some d) (hf : inFormat .xyc32 p = true) :
    exec (.drawA p) s = drawPixel .strict d p.p0.toInt p.p1.toInt (nativeA p.p2 d.fmt) s :=
  (checkOperands_pos s _ hf).trans (withSurface_some _ hd)

theorem exec_drawB_surface (hd : s.surface = some d) (hf : inFormat .xyc16 p = true) :
    exec (.drawB p) s = drawPixel .strict d p.p0.toInt p.p1.toInt (nativeB (half p.p2) d.fmt) s :=
  (checkOperands_pos s _ hf).trans (withSurface_some _ hd)

/-- A load of the pixel just stored answers it (R38). -/
theorem Surface.Legal.exec_surfLoad_afterStore (h : d.Legal) (hd : s.surface = some d) (hm : s.mem.wf = true) {idx : Word}
    {px : Pixel} (hk : idx.toNat < d.count) (hp : px.fmt = d.fmt) :
    ∃ u, exec (.surfLoad ⟨idx, 0, 0, 0⟩) (s.afterStore d idx.toNat px) = .next u ∧
      u.phase = .responding ⟨.ok, false, px.data⟩ := by
  refine ⟨_, h.exec_surfLoad (s := s.afterStore d idx.toNat px) hd hk, ?_⟩
  rw [State.present_phase, State.afterStore_mem, h.pixelAt_writePixel hm hk hk hp, if_pos rfl]

end

end Sys2Proof.Machine
end

section
/-! The statements about the commands that take a point or an index. -/

namespace Sys2Proof.Machine

/-- Settles O28: the command locates a point, and its word is the offset of a hit. -/
theorem surfOffsAnswersTheOffset : Obligations.SurfOffsAnswersTheOffset := fun _ p =>
  decode_and_exec_of_locatePoint (i := .surfOffs p) (answer := fun d x y => BitVec.ofNat 32 (d.offset x y)) rfl rfl
    fun d hx hy => congrArg (BitVec.ofNat 32) (offset_toInt d hx hy)

/-- Settles O29: the command locates a point, and its word is the address of a hit. -/
theorem surfAddrAnswersTheAddress : Obligations.SurfAddrAnswersTheAddress := fun _ p =>
  decode_and_exec_of_locatePoint (i := .surfAddr p) rfl rfl fun d hx hy => by
    rw [Surface.pointAddr, offset_toInt d hx hy, Surface.pixelAddr, Surface.psize]
    cases d.fmt <;> rfl

/-- Settles O31: past its three checks the command is one aligned read, whose bytes are the digits of the answer. -/
theorem surfLoadAnswersThePixel : Obligations.SurfLoadAnswersThePixel := by
  intro s p
  refine ⟨decode_encode (.surfLoad p), ?_⟩
  split
  case isTrue h =>
    refine exec_out_of_format s (inFormat_false_of_not inFormat_idx fun ⟨hp1, hp2, hp3⟩ => ?_)
    exact h.elim (absurd hp1) fun h => h.elim (absurd hp2) (absurd hp3)
  case isFalse h =>
    have hf : inFormat .idx p = true := inFormat_idx.2 (by simpa using h)
    refine ⟨exec_without_surface rfl (fun _ => nofun) hf, ?_⟩
    intro d hd hl a
    split
    case isTrue hk => exact checks_index_beyond hf hd hk
    case isFalse hk =>
      have hload : exec (.surfLoad p) s = .next ((s.requestRead (BitVec.ofNat 32 a) (pixelBytes d.fmt)).present
          ⟨.ok, false, (readPixel s.mem a d.fmt).data⟩) := hl.exec_surfLoad_inFormat hd hf (Nat.not_le.1 hk)
      rw [hload]
      split
      case h_1 hfmt =>
        rw [hfmt, readPixel_a_data]
        rfl
      case h_2 hfmt =>
        rw [hfmt, readPixel_b_data]
        rfl

/-- Settles O32: past the checks a draw is the bounds test, and behind it one store at the address of the hit. -/
theorem drawStoresHitsAndDropsMisses : Obligations.DrawStoresHitsAndDropsMisses := by
  intro s p
  have hfB : p.p3 = 0 → p.p2.toNat < 2 ^ 16 → inFormat .xyc16 p = true := fun hp3 hp2 => inFormat_xyc16.2 ⟨hp2, hp3⟩
  refine ⟨decode_encode (.drawA p), decode_encode (.drawB p),
    fun hp3 => exec_out_of_format s (inFormat_false_of_not inFormat_xyc32 hp3),
    fun h => exec_out_of_format s (inFormat_false_of_not inFormat_xyc16 fun ⟨hp2, hp3⟩ =>
      h.elim (Nat.not_le.2 hp2) (absurd hp3)),
    fun hp3 hs => ⟨exec_without_surface rfl (fun _ => nofun) (inFormat_xyc32.2 hp3) hs,
      fun hp2 => exec_without_surface rfl (fun _ => nofun) (hfB hp3 hp2) hs⟩, fun d hp3 hd hl hm => ?_⟩
  have hA := exec_drawA_surface hd (inFormat_xyc32.2 hp3)
  have hB := fun hp2 => exec_drawB_surface hd (hfB hp3 hp2)
  split
  case isTrue hit =>
    have hb := inBounds_strict_iff.2 hit
    have hk := offset_lt_count hb
    obtain ⟨hx, -, hy, -⟩ := hit
    refine ⟨?_, hl.storesPixel_of_exec hm hk (nativeA_fmt _ _) (hA.trans (drawPixel_hit _ s hb)), fun hp2 => ?_⟩
    · rw [← offset_toInt d hx hy]
      exact (hl.pixelAddr_toNat hk).1
    · rw [ofNat_eq_half]
      exact hl.storesPixel_of_exec hm hk (nativeB_fmt _ _) ((hB hp2).trans (drawPixel_hit _ s hb))
  case isFalse miss =>
    have hb := inBounds_strict_eq_false miss
    exact ⟨hA.trans (drawPixel_miss _ s hb), fun hp2 => (hB hp2).trans (drawPixel_miss _ s hb)⟩

/-- Settles O33: past its three checks a store by index is one store at the address of the index. -/
theorem storeWritesTheIndexedPixel : Obligations.StoreWritesTheIndexedPixel := by
  intro s p
  refine ⟨decode_encode (.storeA p), decode_encode (.storeB p),
    fun h => exec_out_of_format s (inFormat_false_of_not inFormat_idxc32 fun ⟨hp2, hp3⟩ =>
      h.elim (absurd hp2) (absurd hp3)),
    fun h => exec_out_of_format s (inFormat_false_of_not inFormat_idxc16 fun ⟨hp1, hp2, hp3⟩ =>
      h.elim (Nat.not_le.2 hp1) fun h => h.elim (absurd hp2) (absurd hp3)),
    fun hp2 hp3 hs => ⟨exec_without_surface rfl (fun _ => nofun) (inFormat_idxc32.2 ⟨hp2, hp3⟩) hs,
      fun hp1 => exec_without_surface rfl (fun _ => nofun) (inFormat_idxc16.2 ⟨hp1, hp2, hp3⟩) hs⟩,
    fun d hp2 hp3 hd hl hm => ?_⟩
  have hfA := inFormat_idxc32.2 ⟨hp2, hp3⟩
  have hfB := fun hp1 => inFormat_idxc16.2 ⟨hp1, hp2, hp3⟩
  split
  case isTrue hk => exact ⟨checks_index_beyond hfA hd hk, fun hp1 => checks_index_beyond (hfB hp1) hd hk⟩
  case isFalse hk =>
    have hlt : p.p0.toNat < d.count := Nat.not_le.1 hk
    refine ⟨(hl.pixelAddr_toNat hlt).1, hl.storesPixel_of_exec hm hlt (nativeA_fmt _ _) (exec_storeA_index hd hfA hlt),
      fun hp1 => ?_⟩
    rw [ofNat_eq_half]
    exact hl.storesPixel_of_exec hm hlt (nativeB_fmt _ _) (exec_storeB_index hd (hfB hp1) hlt)

/-- Settles O34: the pixel stored is the colour in the native format, and a load of the same index answers it. -/
theorem loadAnswersTheStoredColourInNativeFormat : Obligations.LoadAnswersTheStoredColourInNativeFormat := by
  intro s d idx c h hd hl hm hk
  have hword : inFormat .idxc16 ⟨idx, h.setWidth 32, 0, 0⟩ = true := inFormat_idxc16.2 ⟨toNat_setWidth_lt h, rfl, rfl⟩
  have hA := (exec_storeA_index (p := ⟨idx, c, 0, 0⟩) hd (inFormat_idxc32.2 ⟨rfl, rfl⟩) hk).trans
    (hl.storePixel_eq s hk (nativeA_fmt _ _))
  have hB := (exec_storeB_index hd hword hk).trans (hl.storePixel_eq s hk (nativeB_fmt _ _))
  obtain ⟨u, hu, hdata⟩ := hl.exec_surfLoad_afterStore hd hm hk (nativeA_fmt c d.fmt)
  obtain ⟨u', hu', hdata'⟩ := hl.exec_surfLoad_afterStore hd hm hk (nativeB_fmt h d.fmt)
  rw [half_setWidth] at hB
  refine ⟨_, _, u, u', _, _, hA, hu, hB, hu', exec_cvtAB s (inFormat_w32.2 ⟨rfl, rfl, rfl⟩),
    exec_cvtBA s (inFormat_w16.2 ⟨toNat_setWidth_lt h, rfl, rfl, rfl⟩), fun hf => ?_, fun hf => ?_⟩
  · rw [hdata, hdata', hf, half_setWidth]
    exact ⟨rfl, rfl⟩
  · rw [hdata, hdata', hf]
    exact ⟨rfl, rfl⟩

end Sys2Proof.Machine
end

section
/-! SUPPORT. Drawing a list of points: what the items leave of a surface (R140), for one item, for two lists in a row, and for
the list of commands that draws them. -/

namespace Sys2Proof.Machine

section
variable {d : Surface} {native : Word → Pixel}

/-! ### The pixels after the items of a list (R140) -/

theorem pixelAfterPoints_singleton (k : Nat) (x y c : Word) (px : Pixel) :
    pixelAfterPoints d k native [(x, y, c)] px =
      if inBounds .strict d x.toInt y.toInt = true ∧ k = d.offset x.toInt y.toInt then native c else px := by
  refine if_congr ?_ rfl rfl
  rw [inBounds_strict_iff]
  constructor
  · rintro ⟨hx, hxw, hy, hyh, hk⟩
    exact ⟨⟨hx, hxw, hy, hyh⟩, Int.ofNat_inj.1 (hk.symm.trans (offset_eq_sum hx hy).symm)⟩
  · rintro ⟨⟨hx, hxw, hy, hyh⟩, rfl⟩
    exact ⟨hx, hxw, hy, hyh, (offset_eq_sum hx hy).symm⟩

theorem pixelAfterPoints_cons (k : Nat) (pt : Word × Word × Word) (pts : List (Word × Word × Word)) (px : Pixel) :
    pixelAfterPoints d k native (pt :: pts) px =
      pixelAfterPoints d k native pts (pixelAfterPoints d k native [pt] px) := rfl

/-- What a list of items drawn on a surface leaves, in the terms of R140's contract. -/
structure Drawn (d : Surface) (native : Word → Pixel) (pts : List (Word × Word × Word)) (s t : State) : Prop where
  surface_eq : t.surface = some d
  mem_wf : t.mem.wf = true
  pixels : ∀ k, k < d.count → d.pixelAt t.mem k = pixelAfterPoints d k native pts (d.pixelAt s.mem k)
  outside : ∀ a, d.owns a = false → readByte t.mem a = readByte s.mem a

theorem Drawn.nil {s : State} (hd : s.surface = some d) (hm : s.mem.wf = true) : Drawn d native [] s s :=
  ⟨hd, hm, fun _ _ => rfl, fun _ _ => rfl⟩

theorem Drawn.cons {s t u : State} {pt : Word × Word × Word} {pts : List (Word × Word × Word)}
    (hfirst : Drawn d native [pt] s t) (hrest : Drawn d native pts t u) : Drawn d native (pt :: pts) s u where
  surface_eq := hrest.surface_eq
  mem_wf := hrest.mem_wf
  pixels k hk := by rw [pixelAfterPoints_cons, hrest.pixels k hk, hfirst.pixels k hk]
  outside a ha := (hrest.outside a ha).trans (hfirst.outside a ha)

/-! ### One item -/

/-- A miss drops the item. -/
theorem drawn_of_miss {s : State} {x y c : Word} (hd : s.surface = some d) (hm : s.mem.wf = true)
    (hb : inBounds .strict d x.toInt y.toInt = false) (r : Response) : Drawn d native [(x, y, c)] s (s.present r) where
  surface_eq := hd
  mem_wf := hm
  pixels k _ := by
    rw [pixelAfterPoints_singleton, if_neg fun h => Bool.eq_false_iff.1 hb h.1]
    rfl
  outside _ _ := rfl

/-- A byte that is not the surface's is in none of its pixels (R31). -/
theorem Surface.Legal.not_in_pixel (h : d.Legal) {k a : Nat} (hk : k < d.count) (ha : d.owns a = false) :
    a < (d.pixelAddr k).toNat ∨ (d.pixelAddr k).toNat + d.psize ≤ a := by
  by_contra hin
  exact Bool.eq_false_iff.1 ha (h.owns_pixel hk (by omega) (by omega))

/-- A hit stores its pixel at its offset, and no pixel of the surface but that one changes. -/
theorem Surface.Legal.drawn_afterStore {s : State} {x y c : Word} (h : d.Legal) (hd : s.surface = some d)
    (hm : s.mem.wf = true) (hp : (native c).fmt = d.fmt) (hb : inBounds .strict d x.toInt y.toInt = true) :
    Drawn d native [(x, y, c)] s (s.afterStore d (d.offset x.toInt y.toInt) (native c)) := by
  have hoffset := offset_lt_count hb
  have hspace := h.pixelAddr_add_le hoffset hp
  refine ⟨hd, writePixel_wf _ _ _ hspace hm, fun k hk => ?_, fun a ha => ?_⟩
  · rw [pixelAfterPoints_singleton, State.afterStore_mem, h.pixelAt_writePixel hm hoffset hk hp]
    exact if_congr (and_iff_right hb).symm rfl rfl
  · refine readByte_writePixel_outside _ _ a _ hspace hm ?_
    rw [hp]
    exact h.not_in_pixel hoffset ha

theorem Surface.Legal.drawPixel_drawn {s : State} {x y c : Word} (h : d.Legal) (hd : s.surface = some d)
    (hm : s.mem.wf = true) (hp : (native c).fmt = d.fmt) :
    ∃ t, drawPixel .strict d x.toInt y.toInt (native c) s = .next t ∧ Drawn d native [(x, y, c)] s t := by
  cases hb : inBounds .strict d x.toInt y.toInt with
  | true =>
    exact ⟨_, (drawPixel_hit _ s hb).trans (h.storePixel_eq s (offset_lt_count hb) hp), h.drawn_afterStore hd hm hp hb⟩
  | false => exact ⟨_, drawPixel_miss _ s hb, drawn_of_miss hd hm hb _⟩

/-! ### The commands of a list (R62) -/

theorem execAll_cons {i : Instr} {is : List Instr} {s t : State} (h : exec i s = .next t) :
    execAll (i :: is) s = execAll is t := by
  rw [execAll, h]

/-- Commands that each draw an item draw the list, by induction on it: `cmd` builds the command of an entry, `item` reads the
entry as an item of R140. -/
theorem Surface.Legal.execAll_drawn {α : Type} {cmd : α → Instr} {item : α → Word × Word × Word} (h : d.Legal)
    (hp : ∀ c, (native c).fmt = d.fmt)
    (hcmd : ∀ (e : α) (s : State), s.surface = some d →
      exec (cmd e) s = drawPixel .strict d (item e).1.toInt (item e).2.1.toInt (native (item e).2.2) s)
    (es : List α) (s : State) (hd : s.surface = some d) (hm : s.mem.wf = true) :
    ∃ t, execAll (es.map cmd) s = .next t ∧ Drawn d native (es.map item) s t := by
  induction es generalizing s with
  | nil => exact ⟨s, rfl, .nil hd hm⟩
  | cons e es ih =>
    obtain ⟨t, hdraw, hfirst⟩ := h.drawPixel_drawn (x := (item e).1) (y := (item e).2.1) hd hm (hp (item e).2.2)
    obtain ⟨u, hrun, hrest⟩ := ih t hfirst.surface_eq hfirst.mem_wf
    exact ⟨u, (execAll_cons ((hcmd e s hd).trans hdraw)).trans hrun, hfirst.cons hrest⟩

end

end Sys2Proof.Machine
end

section
/-! The statement about drawing a list of points. -/

namespace Sys2Proof.Machine

/-- Settles O36: in either format each command of the list draws its item, and what the items leave adds up over the list. -/
theorem drawPointsContract : Obligations.DrawPointsContract := by
  intro s d hd hl hm
  refine ⟨fun pts => ?_, fun pts => ?_⟩
  · obtain ⟨t, hrun, hdrawn⟩ := hl.execAll_drawn (item := id) (fun c => nativeA_fmt c d.fmt)
      (fun pt s hd => exec_drawA_surface (p := ⟨pt.1, pt.2.1, pt.2.2, 0⟩) hd (inFormat_xyc32.2 rfl)) pts s hd hm
    rw [List.map_id] at hdrawn
    exact ⟨t, hrun, hdrawn.surface_eq, hdrawn.mem_wf, hdrawn.pixels, hdrawn.outside⟩
  · obtain ⟨t, hrun, hdrawn⟩ := hl.execAll_drawn
      (item := fun pt : Word × Word × Half => (pt.1, pt.2.1, pt.2.2.setWidth 32))
      (fun c => nativeB_fmt (c.setWidth 16) d.fmt)
      (fun pt s hd => (exec_drawB_surface (p := ⟨pt.1, pt.2.1, pt.2.2.setWidth 32, 0⟩) hd
        (inFormat_xyc16.2 ⟨toNat_setWidth_lt pt.2.2, rfl⟩)).trans (by rw [half_eq_setWidth])) pts s hd hm
    exact ⟨t, hrun, hdrawn.surface_eq, hdrawn.mem_wf, hdrawn.pixels, hdrawn.outside⟩

end Sys2Proof.Machine
end

section
/-! SUPPORT. The status of a command: the status that each check gives, the one that the fixed order of checks gives a whole
command, the statuses that a command can have at all, and what an error leaves behind. -/

namespace Sys2Proof.Machine

/-! ### The expected status, one check at a time (R165) -/

section
variable {i : Instr} {s : State}

theorem expectedStatus_out_of_format (hf : i.wellFormed = false) : expectedStatus i s = .errOperand := if_pos hf

theorem expectedStatus_without_surface (hf : i.wellFormed = true) (hneeds : needsSurface i = true)
    (hs : s.surface = none) : expectedStatus i s = .errNosurf := by
  simp only [expectedStatus, hf, Bool.true_eq_false, if_false, hneeds, hs, and_self, if_true]

theorem expectedStatus_of_index {idx : Word} {d : Surface} (hf : i.wellFormed = true)
    (hidx : indexOperand i = some idx) (hd : s.surface = some d) :
    expectedStatus i s = if d.count ≤ idx.toNat then .errIndex else .ok := by
  cases i with
  | surfLoad | storeA | storeB =>
    cases hidx
    simp only [expectedStatus, hf, Bool.true_eq_false, if_false, hd, reduceCtorEq, and_false, indexOperand]
  | _ => cases hidx

/-- Past the operand check and the valid test only `SURF.SET` and the commands with an index have a check left. -/
theorem expectedStatus_past_checks (hf : i.wellFormed = true) (hs : needsSurface i = true → s.surface ≠ none)
    (hset : ∀ p, i ≠ .surfSet p) (hidx : indexOperand i = none) : expectedStatus i s = .ok := by
  have hvalid : ¬ (needsSurface i = true ∧ s.surface = none) := fun ⟨hneeds, hnone⟩ => hs hneeds hnone
  unfold expectedStatus
  rw [if_neg (Bool.not_eq_false _ ▸ hf), if_neg hvalid]
  cases i with
  | surfSet p => exact absurd rfl (hset p)
  | surfLoad | storeA | storeB => cases hidx
  | _ => rfl

theorem expectedStatus_surfSet_some {p : Operands} {d : Surface} (hf : (Instr.surfSet p).wellFormed = true)
    (hd : s.surface = some d) : expectedStatus (.surfSet p) s = .errBusy := by
  have hneeds : needsSurface (.surfSet p) = false := rfl
  simp only [expectedStatus, hf, hneeds, hd, Bool.true_eq_false, Bool.false_eq_true, false_and, if_false]

theorem expectedStatus_surfSet_none {p : Operands} (hf : (Instr.surfSet p).wellFormed = true)
    (hs : s.surface = none) : expectedStatus (.surfSet p) s =
      if (describedSurface p).base.toNat % (describedSurface p).align ≠ 0 then .errAlign
      else if (describedSurface p).base.toNat + (describedSurface p).size > 2 ^ 32 then .errRange
      else .ok := by
  have hneeds : needsSurface (.surfSet p) = false := rfl
  simp only [expectedStatus, hf, hneeds, hs, Bool.true_eq_false, Bool.false_eq_true, false_and, if_false]

end

/-! ### The commands of the later checks -/

theorem isColour_eq_false_of_needsSurface {i : Instr} (h : needsSurface i = true) : isColour i = false := by
  simp only [needsSurface, isColour, decide_eq_true_eq, decide_eq_false_iff_not] at h ⊢
  omega

theorem ne_surfSet_of_needsSurface {i : Instr} (h : needsSurface i = true) (p : Operands) : i ≠ .surfSet p := by
  rintro rfl
  cases h

theorem eq_of_indexOperand_eq_some {i : Instr} {idx : Word} (h : indexOperand i = some idx) :
    ∃ p, i = .surfLoad p ∨ i = .storeA p ∨ i = .storeB p := by
  cases i with
  | surfLoad p => exact ⟨p, .inl rfl⟩
  | storeA p => exact ⟨p, .inr (.inl rfl)⟩
  | storeB p => exact ⟨p, .inr (.inr rfl)⟩
  | _ => cases h

theorem indexOperand_eq_none_of_isColour {i : Instr} (h : isColour i = true) : indexOperand i = none := by
  cases hidx : indexOperand i with
  | none => rfl
  | some idx => obtain ⟨p, rfl | rfl | rfl⟩ := eq_of_indexOperand_eq_some hidx <;> cases h

/-! ### The statuses a command can have (R160) -/

/-- The rows of R160: which command can have which status. `ERR_ILLEGAL` is no command's: it answers a reserved
byte (R58). -/
inductive ListedStatus (i : Instr) : Status → Prop
  | ok : ListedStatus i .ok
  | operand : ListedStatus i .errOperand
  | nosurf (hneeds : needsSurface i = true) : ListedStatus i .errNosurf
  | busy (hi : ∃ p, i = .surfSet p) : ListedStatus i .errBusy
  | align (hi : ∃ p, i = .surfSet p) : ListedStatus i .errAlign
  | range (hi : ∃ p, i = .surfSet p) : ListedStatus i .errRange
  | index (hi : ∃ p, i = .surfLoad p ∨ i = .storeA p ∨ i = .storeB p) : ListedStatus i .errIndex

/-- The order of checks gives a command only a status of its rows. -/
theorem listedStatus_expectedStatus (i : Instr) (s : State) : ListedStatus i (expectedStatus i s) := by
  unfold expectedStatus
  split
  · exact .operand
  split
  case isTrue h => exact .nosurf h.1
  split
  · split
    · exact .align ⟨_, rfl⟩
    · split
      · exact .range ⟨_, rfl⟩
      · exact .ok
  · exact .busy ⟨_, rfl⟩
  · split
    · exact .index (eq_of_indexOperand_eq_some ‹_›)
    · exact .ok
  · exact .ok

section
variable {i : Instr} {e : Status}

theorem ListedStatus.of_colour (h : ListedStatus i e) (hcolour : isColour i = true) : e = .ok ∨ e = .errOperand := by
  cases h with
  | ok => exact .inl rfl
  | operand => exact .inr rfl
  | nosurf hneeds => rw [isColour_eq_false_of_needsSurface hneeds] at hcolour; cases hcolour
  | busy hi | align hi | range hi => obtain ⟨p, rfl⟩ := hi; cases hcolour
  | index hi => obtain ⟨p, rfl | rfl | rfl⟩ := hi <;> cases hcolour

theorem ListedStatus.needs_surface (h : ListedStatus i .errNosurf) : needsSurface i = true := by
  cases h with | nosurf hneeds => exact hneeds

theorem ListedStatus.eq_surfSet (h : ListedStatus i e) (he : e = .errBusy ∨ e = .errAlign ∨ e = .errRange) :
    ∃ p, i = .surfSet p := by
  rcases he with rfl | rfl | rfl <;> cases h <;> assumption

theorem ListedStatus.takes_index (h : ListedStatus i .errIndex) :
    ∃ p, i = .surfLoad p ∨ i = .storeA p ∨ i = .storeB p := by
  cases h with | index hi => exact hi

theorem ListedStatus.ne_errIllegal (h : ListedStatus i e) : e ≠ .errIllegal := by
  cases h <;> nofun

end

/-! ### The status of an outcome -/

/-- Wherever the machine goes on with a response, the response has this status. -/
def Reports (e : Status) (k : Result) : Prop :=
  ∀ (t : State) (r : Response), k = .next t → t.phase = .responding r → r.status = e

section
variable {i : Instr} {s : State}

theorem Reports.raise (s : State) (e : Status) : Reports e (s.raise e) := by
  rintro t r ⟨⟩ ⟨⟩
  rfl

theorem Reports.respond (s : State) (flag : Bool) (data : Word) : Reports .ok (s.respond flag data) := by
  rintro t r ⟨⟩ ⟨⟩
  rfl

theorem Reports.of_loadPixel (s : State) (a : Word) (f : Format) : Reports .ok (loadPixel s a f) := by
  intro t r ht hr
  obtain ⟨-, rfl⟩ := loadPixel_next ht
  cases hr
  rfl

theorem Reports.of_storePixel (s : State) (a : Word) (px : Pixel) : Reports .ok (storePixel s a px) := by
  intro t r ht hr
  obtain ⟨-, rfl⟩ := storePixel_next ht
  cases hr
  rfl

/-- A point that misses is no error (R162). -/
theorem Reports.of_drawPixel (policy : BoundsPolicy) (d : Surface) (x y : Int) (px : Pixel) (s : State) :
    Reports .ok (drawPixel policy d x y px s) := by
  cases hb : inBounds policy d x y with
  | true => rw [drawPixel_hit px s hb]; exact .of_storePixel s _ px
  | false => rw [drawPixel_miss px s hb]; exact .respond s false 0

/-- A point that misses is no error (R162). -/
theorem Reports.of_hit_or_miss (s : State) (b : Bool) (data : Word) :
    Reports .ok (if b then s.respond true data else s.respond false 0) := by
  cases b with
  | true => exact .respond s true data
  | false => exact .respond s false 0

theorem Reports.of_checkIndex {idx : Word} {d : Surface} {k : Result} (h : Reports .ok k) :
    Reports (if d.count ≤ idx.toNat then .errIndex else .ok) (checkIndex idx d s k) := by
  split
  case isTrue hge => rw [checkIndex_neg hge]; exact .raise s .errIndex
  case isFalse hlt => rwa [checkIndex_pos (Nat.not_le.1 hlt)]

theorem Reports.of_setSurface (displayAlign : Nat) (d : Surface) (s : State) :
    Reports (if d.base.toNat % alignOf displayAlign d.purpose d.fmt ≠ 0 then .errAlign
      else if d.base.toNat + d.size > 2 ^ 32 then .errRange else .ok) (setSurface displayAlign d s) := by
  unfold setSurface
  split
  · exact .raise s .errAlign
  · split
    · exact .raise s .errRange
    · exact .respond _ false 0

/-! ### The status of a command, by the checks it has (R165) -/

theorem exec_reports_of_checkOperands {k : Result}
    (hexec : exec i s = checkOperands (instrFormat i) (operandWords i) s k)
    (hk : i.wellFormed = true → Reports (expectedStatus i s) k) : Reports (expectedStatus i s) (exec i s) := by
  rw [hexec]
  cases hf : i.wellFormed with
  | false =>
    rw [expectedStatus_out_of_format hf, checkOperands_neg s k hf]
    exact .raise s .errOperand
  | true =>
    rw [checkOperands_pos s k hf]
    exact hk hf

theorem exec_reports_of_withSurface {k : Surface → Result} (hneeds : needsSurface i = true)
    (hexec : exec i s = checkOperands (instrFormat i) (operandWords i) s (withSurface s k))
    (hk : i.wellFormed = true → ∀ d, s.surface = some d → Reports (expectedStatus i s) (k d)) :
    Reports (expectedStatus i s) (exec i s) :=
  exec_reports_of_checkOperands hexec fun hf => by
    cases hs : s.surface with
    | none =>
      rw [expectedStatus_without_surface hf hneeds hs, withSurface_none k hs]
      exact .raise s .errNosurf
    | some d =>
      rw [withSurface_some k hs]
      exact hk hf d hs

theorem exec_reports_of_isColour (hi : isColour i = true) : Reports (expectedStatus i s) (exec i s) := by
  obtain ⟨data, hexec⟩ := exec_colour hi
  refine exec_reports_of_checkOperands (hexec s) fun hf => ?_
  have hset : ∀ p, i ≠ .surfSet p := by rintro p rfl; cases hi
  have hneeds : needsSurface i = true → s.surface ≠ none := fun h => by
    rw [isColour_eq_false_of_needsSurface h] at hi
    cases hi
  rw [expectedStatus_past_checks hf hneeds hset (indexOperand_eq_none_of_isColour hi)]
  exact .respond s false data

theorem exec_reports_of_valid_test {k : Surface → Result} (hneeds : needsSurface i = true)
    (hidx : indexOperand i = none)
    (hexec : exec i s = checkOperands (instrFormat i) (operandWords i) s (withSurface s k))
    (hk : ∀ d, Reports .ok (k d)) : Reports (expectedStatus i s) (exec i s) :=
  exec_reports_of_withSurface hneeds hexec fun hf d hd => by
    rw [expectedStatus_past_checks hf (fun _ => hd ▸ nofun) (ne_surfSet_of_needsSurface hneeds) hidx]
    exact hk d

theorem exec_reports_of_index_test {idx : Word} {k : Surface → Result} (hidx : indexOperand i = some idx)
    (hneeds : needsSurface i = true)
    (hexec : exec i s = checkOperands (instrFormat i) (operandWords i) s
      (withSurface s fun d => checkIndex idx d s (k d)))
    (hk : ∀ d, Reports .ok (k d)) : Reports (expectedStatus i s) (exec i s) :=
  exec_reports_of_withSurface hneeds hexec fun hf d hd => by
    rw [expectedStatus_of_index hf hidx hd]
    exact .of_checkIndex (hk d)

theorem exec_reports_surfSet (p : Operands) (s : State) :
    Reports (expectedStatus (.surfSet p) s) (exec (.surfSet p) s) := by
  refine exec_reports_of_checkOperands rfl fun hf => ?_
  cases hs : s.surface with
  | some d =>
    rw [expectedStatus_surfSet_some hf hs]
    exact .raise s .errBusy
  | none =>
    rw [expectedStatus_surfSet_none hf hs]
    exact .of_setSurface _ _ s

end

/-- The status of every command is the one that the order of R165 gives it. -/
theorem exec_reports (i : Instr) (s : State) : Reports (expectedStatus i s) (exec i s) := by
  cases i with
  | surfSet p => exact exec_reports_surfSet p s
  | surfClr p | surfBase p | surfWidth p | surfHeight p | surfCount p | surfAttr p =>
    exact exec_reports_of_valid_test rfl rfl rfl fun _ => .respond _ _ _
  | surfOffs p | surfAddr p => exact exec_reports_of_valid_test rfl rfl rfl fun _ => .of_hit_or_miss _ _ _
  | surfLoad p => exact exec_reports_of_index_test rfl rfl rfl fun _ => .of_loadPixel _ _ _
  | drawA p | drawB p => exact exec_reports_of_valid_test rfl rfl rfl fun _ => .of_drawPixel _ _ _ _ _ _
  | storeA p | storeB p => exact exec_reports_of_index_test rfl rfl rfl fun _ => .of_storePixel _ _ _
  | _ => exact exec_reports_of_isColour rfl

/-- A command that draws or locates a point has no check left past the valid test (R162). -/
theorem expectedStatus_of_point {i : Instr} {s : State} {d : Surface} (hd : s.surface = some d)
    (hf : i.wellFormed = true) (hi : ∃ p, i = .drawA p ∨ i = .drawB p ∨ i = .surfOffs p ∨ i = .surfAddr p) :
    expectedStatus i s = .ok := by
  obtain ⟨hidx, hset⟩ : indexOperand i = none ∧ ∀ p, i ≠ .surfSet p := by
    obtain ⟨p, rfl | rfl | rfl | rfl⟩ := hi <;> exact ⟨rfl, nofun⟩
  exact expectedStatus_past_checks hf (fun _ => hd ▸ nofun) hset hidx

/-! ### What an error leaves behind (R161) -/

/-- The only effect with an error is the error response. -/
theorem Effect.eq_erred {i : Instr} {s t : State} {r : Response} (h : Effect i s t) (hr : t.phase = .responding r)
    (hne : r.status ≠ .ok) : t = s.erred r.status := by
  cases h with
  | error e => cases hr; rfl
  | answer | set | clear | load | store => cases hr; exact absurd rfl hne

theorem executeCommand_eq_erred {w : Command} {s t : State} {r : Response} (h : executeCommand w s = .next t)
    (hr : t.phase = .responding r) (hne : r.status ≠ .ok) : t = s.erred r.status := by
  cases hw : decode w with
  | ok i => rw [executeCommand_ok hw] at h; exact (exec_effect h).eq_erred hr hne
  | error e => rw [executeCommand_error hw] at h; cases h; cases hr; rfl

/-- The response that stands after `raise E` (R161). -/
theorem State.erred_response {s : State} {e : Status} {r : Response} (hr : (s.erred e).phase = .responding r) :
    r = ⟨e, false, 0⟩ := by
  cases hr
  rfl

/-- A command executes over a presented response as without it: it does not read the phase. -/
theorem executeCommand_present (w : Command) (s : State) (r : Response) :
    executeCommand w (s.present r) = executeCommand w s :=
  (overPorts_executeCommand w (s.present r)).symm.trans (overPorts_executeCommand w s)

end Sys2Proof.Machine
end

section
/-! The statements about the errors of the commands. -/

namespace Sys2Proof.Machine

/-- Settles O39: an error is an effect of the response alone, and no command reads the response. -/
theorem errorsLeaveNothingBehind : Obligations.ErrorsLeaveNothingBehind := by
  intro w s t r h hr hne
  obtain rfl := executeCommand_eq_erred h hr hne
  rw [State.erred_response hr]
  exact ⟨rfl, rfl, rfl, fun w' => executeCommand_present w' s _⟩

/-- Settles O40: every command is answered, with the status that its checks give in their order. -/
theorem checksAreMadeInOneOrder : Obligations.ChecksAreMadeInOneOrder := by
  intro w s hl
  obtain ⟨t, r, h, hr⟩ := executeCommand_responds w hl
  refine ⟨t, r, h, hr, fun hne => ?_, ?_⟩
  · obtain rfl := executeCommand_eq_erred h hr hne
    exact congrArg s.present (State.erred_response hr).symm
  · cases hw : decode w with
    | ok i => rw [executeCommand_ok hw] at h; exact exec_reports i s t r h hr
    | error e => rw [executeCommand_error hw] at h; cases h; cases hr; rfl

/-- Settles O41: the status that the order of checks gives is one of the command's rows of R160, and for a point no check is
left to fail. -/
theorem onlyTheListedErrors : Obligations.OnlyTheListedErrors := by
  refine ⟨fun i s t r h hr => ?_, fun i s d hd hl hf hi => ?_⟩
  · have hlisted : ListedStatus i r.status := exec_reports i s t r h hr ▸ listedStatus_expectedStatus i s
    exact ⟨hlisted.of_colour, fun he => (he ▸ hlisted).needs_surface, hlisted.eq_surfSet,
      fun he => (he ▸ hlisted).takes_index, hlisted.ne_errIllegal⟩
  · obtain ⟨t, ht⟩ := completes_exec i (s := s) fun d' hd' => Option.some.inj (hd.symm.trans hd') ▸ hl
    obtain ⟨r, hr⟩ := (exec_effect ht).responds
    exact ⟨t, r, ht, hr, (exec_reports i s t r ht hr).trans (expectedStatus_of_point hd hf hi)⟩

end Sys2Proof.Machine
end

section
/-! SUPPORT. The step with `rst` high, and what the ports show after it. -/

namespace Sys2Proof.Machine

@[simp] theorem State.applyReset_cmdReady (s : State) : s.applyReset.cmdReady = true := rfl
@[simp] theorem State.applyReset_rspValid (s : State) : s.applyReset.rspValid = false := rfl

theorem step_reset {s : State} {pins : Pins} {rest : List Input} (hin : s.inputs = .cycle pins :: rest)
    (hrst : pins.rst = true) : step s = .next (State.applyReset { s with inputs := rest }) :=
  (step_cons hin).trans (clock_reset hrst _)

/-- The command executes in the first step, and the second drops its response. -/
theorem run_executing_reset {s t : State} {w : Command} {quiet pins : Pins} {rest : List Input}
    (hphase : s.phase = .executing w) (hin : s.inputs = .cycle quiet :: .cycle pins :: rest)
    (hquiet : quiet.rst = false) (hrst : pins.rst = true) (hexec : executeCommand w s.consumed = .next t) :
    Host.Core.run core 2 s = .next (State.applyReset { t with inputs := rest }) := by
  have hexecute : step s = .next t := (step_executing hphase (.inr ⟨quiet, _, hin, hquiet⟩)).trans hexec
  have hinputs : t.inputs = .cycle pins :: rest := by
    rw [executeCommand_inputs hexec, State.consumed_inputs, hin, List.tail_cons]
  exact (run_succ 1 hexecute).trans (run_succ 0 (step_reset hinputs hrst))

end Sys2Proof.Machine
end

section
/-! The statements about reset, with and without a command in flight. -/

namespace Sys2Proof.Machine

/-- Settles O50: a reset first leaves memory alone, and a reset after the execution keeps the memory that the command leaves,
which does not depend on the inputs that wait. -/
theorem resetAbandonsTheCommandInFlight : Obligations.ResetAbandonsTheCommandInFlight := by
  intro s w pins quiet rest hs hphase hrst hquiet
  refine ⟨fun hin => ⟨_, step_reset hin hrst, State.applyReset_phase _, State.applyReset_surface _, State.applyReset_mem _⟩,
    fun hin => ?_⟩
  obtain ⟨u, hu⟩ := completes_executeCommand w hs.surface_legal
  obtain ⟨v, hv, -, -, hmem⟩ := executeCommand_next_congr (s' := s.consumed) hu rfl
  exact ⟨_, u, hu, run_executing_reset hphase hin hquiet hrst hv, State.applyReset_phase _, State.applyReset_surface _,
    (State.applyReset_mem _).trans hmem⟩

/-- Settles O49: the fields and the ports of the state after `rst`, whose record of accesses is empty. -/
theorem resetClearsValidAndKeepsMemory : Obligations.ResetClearsValidAndKeepsMemory := by
  intro s pins rest hin hrst
  have hbus : ∀ acc, acc ∈ (State.applyReset { s with inputs := rest }).bus → acc ∈ s.bus := fun _ => nofun
  exact ⟨_, step_reset hin hrst, State.applyReset_surface _, State.applyReset_phase _, State.applyReset_cmdReady _,
    State.applyReset_rspValid _, State.applyReset_mem _, hbus, State.applyReset_inputs _⟩

end Sys2Proof.Machine
end
